-- ==== Sys2Proof/Word.lean ====
section
/-! DEFINITION. The two unit types of the core's data: Word32 and the byte (00_scope.md R9, R13). -/

namespace Sys2Proof

/-- Word32: "an unsigned 32-bit integer; all arithmetic on it is modulo 2^32" (R9, R13). -/
abbrev Word := BitVec 32

/-- One 8-bit value of a ByteSequence (R13). -/
abbrev Byte := BitVec 8

end Sys2Proof
end

