-- ==== Sys2Proof/Syntax.lean ====
section
/-! DEFINITION. The instructions: the five rows of spec/opcode_table.json, which are the five valid command words
(30_encoding.md R75). A command has no operand beyond the ALG field, and the table gives each ALG value a row. -/

namespace Sys2Proof

/-- The commands a host can write to CMD (R75). -/
inductive Instr where
  /-- NOP, 0x00000000 (R201). -/
  | nop
  /-- START.SHA1, 0x00000001 (R202). -/
  | startSha1
  /-- START.SHA224, 0x00000011 (R202). -/
  | startSha224
  /-- START.SHA256, 0x00000021 (R202). -/
  | startSha256
  /-- CLEAR, 0x00000002 (R203). -/
  | clear
  deriving DecidableEq, Repr

end Sys2Proof
end

