-- ==== Sys2Proof/Decode.lean ====
section
/-! DEFINITION. Decoding of a command word, total on all 2^32 values (30_encoding.md R72, R73), and the encoder, from the
same table (R75). -/

namespace Sys2Proof

/-- What DecodeCmd answers (R73): a command, or one of the two kinds of reserved word. -/
inductive Decoded where
  /-- NOP, START(alg) or CLEAR. -/
  | command (i : Instr)
  /-- ILLEGAL: the word raises ILLEGAL_COMMAND (R76 a, b, c). -/
  | illegal
  /-- START_RESERVED_ALG: the word raises MALFORMED_PARAMETER_SET (R76 d). -/
  | startReservedAlg
  deriving DecidableEq, Repr

/-- The OP field, bits 3:0 (R72). -/
def opField (v : Word) : BitVec 4 := v.extractLsb' 0 4

/-- The ALG field, bits 5:4 (R72). -/
def algField (v : Word) : BitVec 2 := v.extractLsb' 4 2

/-- The field that must be zero, bits 31:6 (R72). -/
def zeroField (v : Word) : BitVec 26 := v.extractLsb' 6 26

/-- DecodeCmd (R73), its tests in the order the rule writes them. -/
def decode (v : Word) : Decoded :=
  if zeroField v ≠ 0 then .illegal
  else if opField v = 0 ∧ algField v = 0 then .command .nop
  else if opField v = 1 ∧ algField v = 0 then .command .startSha1
  else if opField v = 1 ∧ algField v = 1 then .command .startSha224
  else if opField v = 1 ∧ algField v = 2 then .command .startSha256
  else if opField v = 1 ∧ algField v = 3 then .startReservedAlg
  else if opField v = 2 ∧ algField v = 0 then .command .clear
  else .illegal

/-- The command word of an instruction, its fields in their places: zero, ALG, OP from the top (R72). -/
def commandWord (alg : BitVec 2) (op : BitVec 4) : Word := (0 : BitVec 26) ++ alg ++ op

/-- The encoder, from the OP and ALG columns of R75. -/
def encode : Instr → Word
  | .nop => commandWord 0 0
  | .startSha1 => commandWord 0 1
  | .startSha224 => commandWord 1 1
  | .startSha256 => commandWord 2 1
  | .clear => commandWord 0 2

/-- The instruction the decoder reads from a row of the opcode table. A command is one 32-bit word written in one
transaction (R77), so the table's bit i is bit i of that word; bits above nbits are 0, and no longer form exists. -/
def decodeTableWord (nbits w : Nat) : Option Instr :=
  if w % 2 ^ nbits < 2 ^ 32 then
    match decode (BitVec.ofNat 32 (w % 2 ^ nbits)) with
    | .command i => some i
    | .illegal => none
    | .startReservedAlg => none
  else none

end Sys2Proof
end

