-- ==== Sys2Proof/Config.lean ====
section
/-! DEFINITION. What the spec leaves to the implementation or leaves unspecified: the two OPEN parameters
(93_implementation_defined.md P1, P2), the draws (U1, U2, U3) and the round counter a START leaves (R35). Every constant here is opaque: nothing in Lean can
evaluate it or prove a value of it, so a statement about the model holds for every value it could have. -/

namespace Sys2Proof.Config

/-- MSG_CAP, the capacity of the message buffer in bytes (R7, R51, P1). The type holds exactly the range the spec
allows, 0 <= MSG_CAP <= 2^61 - 1. State carries the value of the instance in its own field msgCap (log entry 3), and
State.reset takes that field from here. -/
opaque msgCap : BitVec 61

/-- REG_BASE, the platform address of the 4096-byte register window (R7, R53, P2). -/
opaque regBase : Nat

/-- The draw number i: an unspecified Word32. Each draw is taken at a fresh i, the counter State.draws, which the read
then advances (U1, U3; log entry 4). -/
opaque freeWord : Nat → Word

/-- The number i of the free values from which START takes the round counter t: the spec bounds that value (R35) and
does not state it. Taken at a fresh i, the counter State.draws, which START then advances (log entry 10). -/
opaque freeRound : Nat → Nat

/-- The draw of an UNWRITTEN message byte, "a draw per byte, fixed for the byte until it is written" (U2, R52). The first
argument counts the resets so far, because a reset makes every byte UNWRITTEN anew (R260); the second is the address
(log entry 5). -/
opaque unwrittenByte : Nat → Nat → Byte

/-- What a host variable holds before the host program has bound it (R79 gives no value; log entry 6). -/
opaque unboundVariable : Nat → Word

end Sys2Proof.Config
end

