-- ==== Sys2Proof/Machine/Types.lean ====
section
/-! DEFINITION. The enumerations and records the state is made of: phases, algorithms, fault causes and digest characters
(10_state.md R21), bus transactions (30_encoding.md R70) and the lines of a host program (R79, R80). -/

namespace Sys2Proof.Machine

/-- The sequencer's control state (R21, R26). It plays the part of the program counter. -/
inductive Phase where
  | idle | load | expand | round | addback | format | done | fault
  deriving DecidableEq, Repr

/-- The three Algorithm Parameter Sets (R2, R21). -/
inductive Alg where
  | sha1 | sha224 | sha256
  deriving DecidableEq, Repr

/-- The fault causes (R240). Codes 6 and 7 are reserved and never written, so they have no constructor (V5). -/
inductive Cause where
  /-- code 0 -/
  | none
  /-- code 1 -/
  | malformedParameterSet
  /-- code 2 -/
  | illegalCommand
  /-- code 3 -/
  | lengthRange
  /-- code 4 -/
  | busyViolation
  /-- code 5 -/
  | badAccess
  deriving DecidableEq, Repr

/-- A character of the formatted digest, one of '0'..'9', 'a'..'f' (R21, R27, R192). -/
inductive HexChar where
  | d0 | d1 | d2 | d3 | d4 | d5 | d6 | d7 | d8 | d9 | a | b | c | d | e | f
  deriving DecidableEq, Repr

/-- The two host-visible address spaces (R50). -/
inductive Space where
  | reg | msg
  deriving DecidableEq, Repr

/-- The direction of a transaction (R70). -/
inductive Dir where
  | rd | wr
  deriving DecidableEq, Repr

/-- A bus transaction, "the core's unit of instruction" (R70). Width and address are unbounded so that the forms R60 and
R71 refuse can be written down; they raise BAD_ACCESS. A width-1 write carries its byte in bits 7:0 of data. A read
carries no data and its data field is ignored (log entry 7). -/
structure Transaction where
  space : Space
  dir   : Dir
  width : Nat
  addr  : Nat
  data  : Word
  deriving DecidableEq, Repr

/-- The registers of the REG window (R32). -/
inductive Reg where
  | cmd | status | lenLo | lenHi
  | digest (j : Fin 8)
  | hex (m : Fin 16)
  deriving DecidableEq, Repr

/-- The data operand of a host program line: a number, or a variable an earlier read bound (R79). -/
inductive DataOperand where
  | literal (v : Word)
  | var (x : Nat)
  deriving DecidableEq, Repr

/-- When a POLL ends: its masked value equals a given one, or, for WAITDONE, is not zero (R80). -/
inductive PollTest where
  | equals (v : Word)
  | nonzero
  deriving DecidableEq, Repr

/-- One line of a host program (R79), or a POLL, which repeats its register read until its test holds (R80). -/
inductive HostLine where
  | access (space : Space) (dir : Dir) (width addr : Nat) (data : DataOperand) (bind : Option Nat)
  | poll (off : Nat) (mask : Word) (test : PollTest)
  deriving DecidableEq, Repr

/-- Who makes the next move: the host, the sequencer (R20, R225), or the reset input (R260). -/
inductive Turn where
  | host | sequencer | reset
  deriving DecidableEq, Repr

/-- The sequencer's operations (R78). -/
inductive SeqOp where
  | load | expand | round1 | addback1 | round2 | addback2 | format
  deriving DecidableEq, Repr

end Sys2Proof.Machine
end

