-- ==== Sys2Proof/Machine/State.lean ====
section
/-! DEFINITION. The state of one core instance and its host: the record of 10_state.md R21 field for field, then what the
model itself needs. Its value after reset (R37, R260), and the reasons a step can stop. -/

namespace Sys2Proof.Machine

/-- The message buffer's written bytes as (address, byte) pairs, addresses strictly rising. An address that is not listed
is UNWRITTEN (R52), so no entry can equal what an unlisted address reads as. -/
abbrev Memory := List Host.Cell

/-- Why the machine stops. The spec stops it nowhere: a host fault is a next state in phase FAULT (R241). -/
inductive Fault where
  /-- Raised by the sequencer, when it is asked for an operation in a state that breaks the "requires" line of that
  operation's rule (R106, R145, R146, R168, R169, R193), or one of the two bounds of R35 that the model tests beside those
  lines: lenL <= MSG_CAP in LOAD and blk < n in ADDBACK. No such state is reachable (R35). DESIGN CHOICE, safe: the model
  stops where the spec gives no step, or where its rules give two (log entry 8). -/
  | sequencerRequires (op : SeqOp)
  deriving DecidableEq, Repr

/-- Why an instruction has no meaning. -/
inductive Refusal where
  /-- Raised by exec for an instruction whose meaning is not written yet; no arm of exec does so. Safe. -/
  | notModelled (mnemonic : String)
  deriving DecidableEq, Repr

/-- The complete state. The first fourteen fields are the record CoreState of R21, with its names. -/
structure State where
  /-- Sequencer control state (R26). -/
  phase   : Phase
  /-- Fault cause code (R29). -/
  cause   : Cause
  /-- LEN_LO register (R30). -/
  lenLo   : Word
  /-- LEN_HI register (R30). -/
  lenHi   : Word
  /-- Message buffer (R51, R52). -/
  msg     : Memory
  /-- Algorithm latched by START (R25). -/
  algL    : Alg
  /-- Message length in bytes latched by START (R25). -/
  lenL    : Nat
  /-- Block count latched by START (R25). -/
  n       : Nat
  /-- Index of the block in progress (R25). -/
  blk     : Nat
  /-- Round counter (R25). -/
  t       : Nat
  /-- HashState (R22). -/
  H       : Vector Word 8
  /-- Working state a..h (R23). -/
  work    : Vector Word 8
  /-- Schedule (R24). -/
  W       : Vector Word 80
  /-- Formatted digest (R27). -/
  hexbuf  : Vector HexChar 64
  /-- MSG_CAP of this instance, a parameter that no step changes (R7, R51; log entry 3). -/
  msgCap  : BitVec 61
  /-- The model's own: the value the last host transaction returned; none if it was a write (log entry 7). -/
  rdata   : Option Word
  /-- The model's own: the moves still to come, in order; when the list is empty the sequencer moves while BUSY and the
  host otherwise (R63, R225; log entry 2). -/
  turns   : List Turn
  /-- The model's own: the host's program, the line it is at first (R79; log entry 1). -/
  program : List HostLine
  /-- The model's own: the variables of the host program, "the host's own registers" (R79). -/
  vars    : List (Nat × Word)
  /-- The model's own: how many draws have been taken (log entries 4 and 10). -/
  draws   : Nat
  /-- The model's own: how many times the reset input has been asserted (log entry 5). -/
  resets  : Nat
  deriving DecidableEq, Repr

/-- The machine right after reset (R37, R260). The registers R37 calls unspecified hold the values of log entry 9. -/
def State.reset : State where
  phase   := .idle
  cause   := .none
  lenLo   := 0
  lenHi   := 0
  msg     := []
  algL    := .sha1
  lenL    := 0
  n       := 1
  blk     := 0
  t       := 0
  H       := Vector.replicate 8 0
  work    := Vector.replicate 8 0
  W       := Vector.replicate 80 0
  hexbuf  := Vector.replicate 64 .d0
  msgCap  := Config.msgCap
  rdata   := none
  turns   := []
  program := []
  vars    := []
  draws   := 0
  resets  := 0

end Sys2Proof.Machine
end

