-- ==== Sys2Proof/Machine/Bits.lean ====
section
/-! DEFINITION. Word operations (00_scope.md R8-R10) and the one place where byte order is decided (20_memory.md R55,
R58). Word addition is BitVec's, which wraps (R9). -/

namespace Sys2Proof.Machine

/-- Circular left rotation by 0 < n < 32 (R10). -/
def rotl (x : Word) (n : Nat) : Word := (x <<< n) ||| (x >>> (32 - n))

/-- Circular right rotation by 0 < n < 32 (R10). -/
def rotr (x : Word) (n : Nat) : Word := (x >>> n) ||| (x <<< (32 - n))

/-- Logical right shift: zeros enter at bit 31 (R10). -/
def shr (x : Word) (n : Nat) : Word := x >>> n

/-- The big-endian packing of four bytes, the first in bits 31:24 (R8, R55). -/
def packBytes (x3 x2 x1 x0 : Byte) : Word := x3 ++ x2 ++ x1 ++ x0

/-- Byte i of a word in big-endian order: byte 0 is bits 31:24, byte 3 is bits 7:0 (R58). -/
def byteOfWord (v : Word) (i : Nat) : Byte := (v >>> (24 - 8 * i)).setWidth 8

/-- Entry i of a file of words. No rule reads outside the file; there the function answers 0. -/
def wordAt {size : Nat} (v : Vector Word size) (i : Nat) : Word :=
  if h : i < size then v[i] else 0

end Sys2Proof.Machine
end

