-- ==== Sys2Proof/Machine/Tables.lean ====
section
/-! DEFINITION. The constant store (20_memory.md R62): the three Algorithm Parameter Sets (42_sha1_compression.md R140-R142,
43_sha2_compression.md R160-R163) and the code of each cause (60_exceptions.md R240). -/

namespace Sys2Proof.Machine

/-- S, the HashState size in words (R7, R140, R160). -/
def stateWords : Alg → Nat
  | .sha1 => 5
  | .sha224 => 8
  | .sha256 => 8

/-- R, the round count (R7, R140, R160). -/
def roundCount : Alg → Nat
  | .sha1 => 80
  | .sha224 => 64
  | .sha256 => 64

/-- k, the output word count (R7, R140, R160). -/
def outWords : Alg → Nat
  | .sha1 => 5
  | .sha224 => 7
  | .sha256 => 8

/-- IV1 (R141). -/
def iv1 : Vector Word 5 := #v[0x67452301, 0xEFCDAB89, 0x98BADCFE, 0x10325476, 0xC3D2E1F0]

/-- IV256 (R161). -/
def iv256 : Vector Word 8 :=
  #v[0x6A09E667, 0xBB67AE85, 0x3C6EF372, 0xA54FF53A, 0x510E527F, 0x9B05688C, 0x1F83D9AB, 0x5BE0CD19]

/-- IV224 (R162). -/
def iv224 : Vector Word 8 :=
  #v[0xC1059ED8, 0x367CD507, 0x3070DD17, 0xF70E5939, 0xFFC00B31, 0x68581511, 0x64F98FA7, 0xBEFA4FA4]

/-- Word j of IV(alg), for j < S(alg) (R202). -/
def ivWord : Alg → Nat → Word
  | .sha1, j => wordAt iv1 j
  | .sha224, j => wordAt iv224 j
  | .sha256, j => wordAt iv256 j

/-- START's write of H[0..S-1]; the other words keep their values (R22, R202). -/
def loadIv (alg : Alg) (H : Vector Word 8) : Vector Word 8 :=
  Vector.ofFn fun j => if j.val < stateWords alg then ivWord alg j.val else H[j]

/-- K1[p], the SHA-1 constant of phase p = floor(t / 20) (R142). -/
def k1 : Nat → Word
  | 0 => 0x5A827999
  | 1 => 0x6ED9EBA1
  | 2 => 0x8F1BBCDC
  | _ => 0xCA62C1D6

/-- The rows of K256, eight constants a row (R163). -/
def k256Row : Nat → Vector Word 8
  | 0 => #v[0x428A2F98, 0x71374491, 0xB5C0FBCF, 0xE9B5DBA5, 0x3956C25B, 0x59F111F1, 0x923F82A4, 0xAB1C5ED5]
  | 1 => #v[0xD807AA98, 0x12835B01, 0x243185BE, 0x550C7DC3, 0x72BE5D74, 0x80DEB1FE, 0x9BDC06A7, 0xC19BF174]
  | 2 => #v[0xE49B69C1, 0xEFBE4786, 0x0FC19DC6, 0x240CA1CC, 0x2DE92C6F, 0x4A7484AA, 0x5CB0A9DC, 0x76F988DA]
  | 3 => #v[0x983E5152, 0xA831C66D, 0xB00327C8, 0xBF597FC7, 0xC6E00BF3, 0xD5A79147, 0x06CA6351, 0x14292967]
  | 4 => #v[0x27B70A85, 0x2E1B2138, 0x4D2C6DFC, 0x53380D13, 0x650A7354, 0x766A0ABB, 0x81C2C92E, 0x92722C85]
  | 5 => #v[0xA2BFE8A1, 0xA81A664B, 0xC24B8B70, 0xC76C51A3, 0xD192E819, 0xD6990624, 0xF40E3585, 0x106AA070]
  | 6 => #v[0x19A4C116, 0x1E376C08, 0x2748774C, 0x34B0BCB5, 0x391C0CB3, 0x4ED8AA4A, 0x5B9CCA4F, 0x682E6FF3]
  | _ => #v[0x748F82EE, 0x78A5636F, 0x84C87814, 0x8CC70208, 0x90BEFFFA, 0xA4506CEB, 0xBEF9A3F7, 0xC67178F2]

/-- K256[t] = row t / 8, column t mod 8 (R163). -/
def k256 (t : Nat) : Word := wordAt (k256Row (t / 8)) (t % 8)

/-- The 3-bit code of a cause (R29, R240). -/
def causeCode : Cause → BitVec 3
  | .none => 0
  | .malformedParameterSet => 1
  | .illegalCommand => 2
  | .lengthRange => 3
  | .busyViolation => 4
  | .badAccess => 5

/-- The BUSY phases (R28, 45_host_commands.md). -/
def isBusy : Phase → Bool
  | .idle => false
  | .load => true
  | .expand => true
  | .round => true
  | .addback => true
  | .format => true
  | .done => false
  | .fault => false

end Sys2Proof.Machine
end

