-- ==== Sys2Proof/Machine/Ops.lean ====
section
/-! DEFINITION. The named operations over memory and state that every transaction and sequencer operation is written with:
the message buffer, draws, the host's response, fault entry and exit (60_exceptions.md R241-R243) and reset (R260). -/

namespace Sys2Proof.Machine

/-- The value an association list with rising keys gives a key. -/
def lookup {β : Type} : List (Nat × β) → Nat → Option β
  | [], _ => none
  | (k, v) :: rest, a => if k = a then some v else lookup rest a

/-- Write a key of an association list with rising keys, keeping the keys rising. -/
def insert {β : Type} : List (Nat × β) → Nat → β → List (Nat × β)
  | [], a, b => [(a, b)]
  | (k, v) :: rest, a, b =>
    if a < k then (a, b) :: (k, v) :: rest
    else if a = k then (a, b) :: rest
    else (k, v) :: insert rest a b

/-- The keys rise strictly, and every key is above bound. -/
def risingAbove {β : Type} : Nat → List (Nat × β) → Bool
  | _, [] => true
  | bound, (k, _) :: rest => decide (bound ≤ k) && risingAbove (k + 1) rest

/-- The canonical form: keys strictly rising. Equal contents are then equal lists. -/
def rising {β : Type} (m : List (Nat × β)) : Bool := risingAbove 0 m

/-- What an unlisted address of the message buffer reads as: nothing, it is UNWRITTEN (R52). -/
def Memory.unlisted : Option Byte := none

/-- The byte written at an address, or UNWRITTEN (R51, R52). -/
def Memory.read (m : Memory) (a : Nat) : Option Byte := (lookup m a).or Memory.unlisted

/-- Write one byte, which stops being UNWRITTEN (R211). -/
def Memory.write (m : Memory) (a : Nat) (b : Byte) : Memory := insert m a b

/-- Write a word at four successive addresses, bits 31:24 lowest (R58, R211). -/
def Memory.writeWord (m : Memory) (a : Nat) (v : Word) : Memory :=
  Memory.write (Memory.write (Memory.write (Memory.write m a (byteOfWord v 0)) (a + 1) (byteOfWord v 1))
    (a + 2) (byteOfWord v 2)) (a + 3) (byteOfWord v 3)

/-- The canonical form of the message buffer. No entry can equal what an unlisted address reads as. -/
def Memory.wf (m : Memory) : Bool := rising m

/-- MemRead(q, 1): the byte at q, or for an UNWRITTEN byte its draw, the same at every read until it is written (R11, R52,
U2). -/
def msgByte (s : State) (q : Nat) : Byte :=
  match Memory.read s.msg q with
  | some b => b
  | none => Config.unwrittenByte s.resets q

/-- The word read at q, big-endian (R58). -/
def msgWord (s : State) (q : Nat) : Word :=
  packBytes (msgByte s q) (msgByte s (q + 1)) (msgByte s (q + 2)) (msgByte s (q + 3))

/-- The transaction returns r to the host. -/
def respond (r : Option Word) (s : State) : State := { s with rdata := r }

/-- The transaction returns an unspecified value: a fresh draw (U1, U3). -/
def respondDraw (s : State) : State := { s with rdata := some (Config.freeWord s.draws), draws := s.draws + 1 }

/-- LEN_LO <- v (R204). -/
def setLenLo (v : Word) (s : State) : State := { s with lenLo := v }

/-- LEN_HI <- v (R204). -/
def setLenHi (v : Word) (s : State) : State := { s with lenHi := v }

/-- The message buffer becomes m (R211). -/
def setMsg (m : Memory) (s : State) : State := { s with msg := m }

/-- raise Fault(c): fault entry (R241). In phase FAULT nothing happens and the first cause stays (R242). -/
def raiseFault (c : Cause) (s : State) : State :=
  if s.phase = .fault then s else { s with cause := c, phase := .fault }

/-- The way out of FAULT, and of any other phase, that CLEAR takes: IDLE, with no cause (R203, R243). -/
def leaveFault (s : State) : State := { s with phase := .idle, cause := .none }

/-- The reset input (R260): every register of the core takes its reset value (R37). The parameter MSG_CAP, the host and
the schedule are not the core's, and the draws go on. -/
def resetCore (s : State) : State :=
  { State.reset with
    msgCap := s.msgCap
    rdata := s.rdata
    turns := s.turns
    program := s.program
    vars := s.vars
    draws := s.draws
    resets := s.resets + 1 }

/-- Carry a next state on; a fault or a refusal stays as it is. -/
def onNext (o : Host.Outcome State Fault Refusal) (f : State → Host.Outcome State Fault Refusal) :
    Host.Outcome State Fault Refusal :=
  match o with
  | .next s => f s
  | .fault r => .fault r
  | .refused r => .refused r

end Sys2Proof.Machine
end

