-- ==== Sys2Proof/Machine/Operands.lean ====
section
/-! DEFINITION. Operand forms: the length START takes (30_encoding.md R74), the register at a REG offset (10_state.md R32,
20_memory.md R53, R54), the legal MSG access forms (R60) and a host line's data operand (R79). -/

namespace Sys2Proof.Machine

/-- L = LEN_HI * 2^32 + LEN_LO, in bytes (R30, R74). -/
def messageLength (s : State) : Nat := s.lenHi.toNat * 2 ^ 32 + s.lenLo.toNat

/-- MSG_CAP of this instance, in bytes (R7). -/
def capacity (s : State) : Nat := s.msgCap.toNat

/-- The register at a REG offset. None where R210 raises BAD_ACCESS for the offset: not a multiple of 4, above 0xFFC, or
listed as unmapped by R32. -/
def regAt (off : Nat) : Option Reg :=
  if off % 4 ≠ 0 then none
  else if off = 0x000 then some .cmd
  else if off = 0x004 then some .status
  else if off = 0x008 then some .lenLo
  else if off = 0x00C then some .lenHi
  else if 0x040 ≤ off ∧ off ≤ 0x05C then some (.digest (Fin.ofNat 8 ((off - 0x040) / 4)))
  else if 0x080 ≤ off ∧ off ≤ 0x0BC then some (.hex (Fin.ofNat 16 ((off - 0x080) / 4)))
  else none

/-- The offset of a register (R32). -/
def regOffset : Reg → Nat
  | .cmd => 0x000
  | .status => 0x004
  | .lenLo => 0x008
  | .lenHi => 0x00C
  | .digest j => 0x040 + 4 * j.val
  | .hex m => 0x080 + 4 * m.val

/-- The platform address of a REG offset (R53). -/
def platformAddress (off : Nat) : Nat := Config.regBase + off

/-- The REG offset a platform address stands for: the window is 4096 bytes from REG_BASE (R53). -/
def windowOffset (addr : Nat) : Option Nat :=
  if Config.regBase ≤ addr ∧ addr < Config.regBase + 4096 then some (addr - Config.regBase) else none

/-- The legal MSG accesses: width 1 inside the buffer, width 4 aligned and inside it (R60, R211). -/
def msgAccessOk (cap width addr : Nat) : Bool :=
  (width == 1 && decide (addr < cap)) || (width == 4 && addr % 4 == 0 && decide (addr + 4 ≤ cap))

/-- The value of a host line's data operand (R79). -/
def operandValue (s : State) : DataOperand → Word
  | .literal v => v
  | .var x => (lookup s.vars x).getD (Config.unboundVariable x)

/-- Bind the value a read returned to a host variable (R79). -/
def bindResponse (bind : Option Nat) (s : State) : State :=
  match bind, s.rdata with
  | some x, some v => { s with vars := insert s.vars x v }
  | some _, none => s
  | none, _ => s

/-- The test of a POLL on the value read (R80). -/
def pollHolds (mask : Word) (test : PollTest) (value : Word) : Bool :=
  match test with
  | .equals v => value &&& mask == v
  | .nonzero => value &&& mask != 0

end Sys2Proof.Machine
end

