-- ==== Sys2Proof/Machine/Partitioner.lean ====
section
/-! DEFINITION. The Padder and the Block Partitioner as functions of the message (40_padder_partitioner.md R100-R105).
The message is given as its length L and the byte at each position below L. -/

namespace Sys2Proof.Machine

/-- Pad(M) (R100). -/
def pad (M : List Byte) : List Byte := M ++ [0x80]

/-- PB(q), the padded byte view (R101). The message is read only below L. -/
def paddedByte (byte : Nat → Byte) (L q : Nat) : Byte :=
  if q < L then byte q else if q = L then 0x80 else 0x00

/-- NBLOCKS(L) = ceil(((L + 1) / 4 + 2) / 16) with exact division (R102): multiplying through by 4, the least n with
64 n >= (L + 1) + 8. -/
def nblocks (L : Nat) : Nat := ((L + 1) + 8 + 63) / 64

/-- The four padded bytes from position o, packed big-endian (R55). -/
def packedWord (byte : Nat → Byte) (L o : Nat) : Word :=
  packBytes (paddedByte byte L o) (paddedByte byte L (o + 1)) (paddedByte byte L (o + 2)) (paddedByte byte L (o + 3))

/-- BLOCKWORD(i, j), word j of block i of n. The length words replace words 14 and 15 of the final block only (R103,
R105). -/
def blockWord (byte : Nat → Byte) (L n i j : Nat) : Word :=
  if i + 1 = n ∧ j = 14 then BitVec.ofNat 32 (8 * L / 2 ^ 32)
  else if i + 1 = n ∧ j = 15 then BitVec.ofNat 32 (8 * L % 2 ^ 32)
  else packedWord byte L (64 * i + 4 * j)

/-- Block i: exactly 16 words (R104). -/
def block (byte : Nat → Byte) (L n i : Nat) : Vector Word 16 :=
  Vector.ofFn fun j => blockWord byte L n i j.val

/-- Blocks(M), in increasing i (R104). -/
def blocks (M : List Byte) : List (Vector Word 16) :=
  (List.range (nblocks M.length)).map
    (block (fun q => M.getD q 0) M.length (nblocks M.length))

end Sys2Proof.Machine
end

