-- ==== Sys2Proof/Machine/Commands.lean ====
section
/-! DEFINITION. The meanings of the five commands (45_host_commands.md R200-R203). -/

namespace Sys2Proof.Machine

/-- DESIGN CHOICE, log entry 10: the round counter that START(alg) leaves, the free value number i within the bound of
10_state.md R35, 0 <= t <= R(alg). -/
def startRound (alg : Alg) (i : Nat) : Nat := Config.freeRound i % (roundCount alg + 1)

/-- An accepted START(alg) of a message of L bytes: what it latches and writes (R202). DEDUCED, log entry 10: it writes t
too (10_state.md R37: "never read before START writes them", of algL, lenL, n, blk and t). -/
def beginDigest (alg : Alg) (L : Nat) (s : State) : State :=
  { s with
    algL := alg
    lenL := L
    n := nblocks L
    blk := 0
    t := startRound alg s.draws
    H := loadIv alg s.H
    phase := .load
    draws := s.draws + 1 }

/-- START(alg), with its refusals in the order of R244; in FAULT it is ignored (R200, R202, R242). -/
def start (alg : Alg) (s : State) : State :=
  if s.phase = .fault then s
  else if isBusy s.phase then raiseFault .busyViolation s
  else if capacity s < messageLength s then raiseFault .lengthRange s
  else beginDigest alg (messageLength s) s

/-- NOP: no state change, in every phase (R201). -/
def execNop (s : State) : Host.Outcome State Fault Refusal := .next s

/-- START.SHA1 (R202). -/
def execStartSha1 (s : State) : Host.Outcome State Fault Refusal := .next (start .sha1 s)

/-- START.SHA224 (R202). -/
def execStartSha224 (s : State) : Host.Outcome State Fault Refusal := .next (start .sha224 s)

/-- START.SHA256 (R202). -/
def execStartSha256 (s : State) : Host.Outcome State Fault Refusal := .next (start .sha256 s)

/-- CLEAR: abandons a digest, and is the one command that acts in FAULT (R203, R243). -/
def execClear (s : State) : Host.Outcome State Fault Refusal := .next (leaveFault s)

end Sys2Proof.Machine
end

