-- ==== Sys2Proof/Machine/Dispatch.lean ====
section
/-! DEFINITION. The dispatch of a command to its meaning, one arm per row of the opcode table. -/

namespace Sys2Proof.Machine

def exec (i : Instr) (s : State) : Host.Outcome State Fault Refusal :=
  match i with
  | .nop => Sys2Proof.Machine.execNop s
  | .startSha1 => Sys2Proof.Machine.execStartSha1 s
  | .startSha224 => Sys2Proof.Machine.execStartSha224 s
  | .startSha256 => Sys2Proof.Machine.execStartSha256 s
  | .clear => Sys2Proof.Machine.execClear s

end Sys2Proof.Machine
end

