-- ==== Sys2Proof/Machine/Flags.lean ====
section
/-! DEFINITION. STATUS, the core's only flags, a pure function of phase and cause (10_state.md R28). No operation sets a
carry, overflow, zero or sign flag (00_scope.md R9). -/

namespace Sys2Proof.Machine

/-- Bit 0, BUSY. -/
def busyBit (p : Phase) : Word := if isBusy p then 0x1 else 0

/-- Bit 1, DONE. -/
def doneBit (p : Phase) : Word := if p = .done then 0x2 else 0

/-- Bit 2, FAULT. -/
def faultBit (p : Phase) : Word := if p = .fault then 0x4 else 0

/-- Bits 10:8, CAUSE, 0 unless phase = FAULT. -/
def causeField (p : Phase) (c : Cause) : Word := if p = .fault then (causeCode c).setWidth 32 <<< 8 else 0

/-- STATUS; bits 7:3 and 31:11 are reserved and read 0 (R28, V4). -/
def statusWord (s : State) : Word :=
  busyBit s.phase ||| doneBit s.phase ||| faultBit s.phase ||| causeField s.phase s.cause

end Sys2Proof.Machine
end

