-- ==== Sys2Proof/Machine/Formatter.lean ====
section
/-! DEFINITION. The Digest Formatter (44_digest_formatter.md R190-R193, R196). -/

namespace Sys2Proof.Machine

/-- NibbleChar (R192). -/
def nibbleChar (v : BitVec 4) : HexChar :=
  match v.toNat with
  | 0 => .d0
  | 1 => .d1
  | 2 => .d2
  | 3 => .d3
  | 4 => .d4
  | 5 => .d5
  | 6 => .d6
  | 7 => .d7
  | 8 => .d8
  | 9 => .d9
  | 10 => .a
  | 11 => .b
  | 12 => .c
  | 13 => .d
  | 14 => .e
  | _ => .f

/-- Ascii: '0'..'9' are 0x30..0x39 and 'a'..'f' are 0x61..0x66 (R196). -/
def ascii : HexChar → Byte
  | .d0 => 0x30
  | .d1 => 0x31
  | .d2 => 0x32
  | .d3 => 0x33
  | .d4 => 0x34
  | .d5 => 0x35
  | .d6 => 0x36
  | .d7 => 0x37
  | .d8 => 0x38
  | .d9 => 0x39
  | .a => 0x61
  | .b => 0x62
  | .c => 0x63
  | .d => 0x64
  | .e => 0x65
  | .f => 0x66

/-- Nibble i of a word, the most significant first: bits 31 - 4i : 28 - 4i (R193). -/
def nibbleOf (w : Word) (i : Nat) : BitVec 4 := (w >>> (28 - 4 * i)).setWidth 4

/-- Hex8(w) (R191). -/
def hex8 (w : Word) : List HexChar := (List.range 8).map fun i => nibbleChar (nibbleOf w i)

/-- Format(H, k): the first k words in index order (R190, R191). -/
def format (H : Vector Word 8) (k : Nat) : List HexChar := (List.range k).flatMap fun j => hex8 (wordAt H j)

/-- FORMAT's write of hexbuf[0..8k-1], character 8j + i from nibble i of H[j]; the other cells are untouched (R27,
R193). -/
def formatInto (H : Vector Word 8) (k : Nat) (buf : Vector HexChar 64) : Vector HexChar 64 :=
  Vector.ofFn fun m =>
    if m.val < 8 * k then nibbleChar (nibbleOf (wordAt H (m.val / 8)) (m.val % 8)) else buf[m]

/-- Character m of the digest buffer, which has 64 cells (R27). -/
def charAt (buf : Vector HexChar 64) (m : Nat) : HexChar := if h : m < 64 then buf[m] else .d0

/-- The value of HEX_m in DONE: four characters, the lowest-indexed in bits 31:24 (R195). -/
def hexWord (buf : Vector HexChar 64) (m : Nat) : Word :=
  packBytes (ascii (charAt buf (4 * m))) (ascii (charAt buf (4 * m + 1)))
    (ascii (charAt buf (4 * m + 2))) (ascii (charAt buf (4 * m + 3)))

end Sys2Proof.Machine
end

