-- ==== Sys2Proof/Machine/Transactions.lean ====
section
/-! DEFINITION. The host's transactions: commands, registers (45_host_commands.md R200, R204-R210) and the message buffer
(R211, R212). Each is one atomic event (20_memory.md R61). A write returns nothing, a read returns a value in rdata. -/

namespace Sys2Proof.Machine

/-- A transaction that raises BAD_ACCESS: it performs nothing else, and a read returns a draw (R54, R241). -/
def badAccess (dir : Dir) (s : State) : State :=
  match dir with
  | .rd => respondDraw (raiseFault .badAccess s)
  | .wr => raiseFault .badAccess s

/-- CmdWrite(v), the command dispatch. In FAULT raiseFault does nothing and every meaning but CLEAR's ignores the command
(R200, R242). -/
def cmdWrite (v : Word) (s : State) : Host.Outcome State Fault Refusal :=
  match decode v with
  | .command i => exec i s
  | .illegal => .next (raiseFault .illegalCommand s)
  | .startReservedAlg => .next (raiseFault .malformedParameterSet s)

/-- A write of LEN_LO (R204). -/
def writeLenLo (v : Word) (s : State) : State :=
  if isBusy s.phase then raiseFault .busyViolation s else setLenLo v s

/-- A write of LEN_HI (R204). -/
def writeLenHi (v : Word) (s : State) : State :=
  if isBusy s.phase then raiseFault .busyViolation s else setLenHi v s

/-- A write of a mapped register: a command, a length word, or a read-only register, which raises BAD_ACCESS (R208,
R210). -/
def regWrite (r : Reg) (v : Word) (s : State) : Host.Outcome State Fault Refusal :=
  match r with
  | .cmd => cmdWrite v s
  | .status => .next (badAccess .wr s)
  | .lenLo => .next (writeLenLo v s)
  | .lenHi => .next (writeLenHi v s)
  | .digest _ => .next (badAccess .wr s)
  | .hex _ => .next (badAccess .wr s)

/-- DIGEST_j (R194). -/
def readDigest (j : Nat) (s : State) : State :=
  if s.phase = .done then respond (some (if j < outWords s.algL then wordAt s.H j else 0)) s
  else respondDraw s

/-- HEX_m (R195). -/
def readHex (m : Nat) (s : State) : State :=
  if s.phase = .done then respond (some (if m < 2 * outWords s.algL then hexWord s.hexbuf m else 0)) s
  else respondDraw s

/-- A read of a mapped register (R205-R207, R209). -/
def regRead (r : Reg) (s : State) : State :=
  match r with
  | .cmd => respond (some 0) s
  | .status => respond (some (statusWord s)) s
  | .lenLo => respond (some s.lenLo) s
  | .lenHi => respond (some s.lenHi) s
  | .digest j => readDigest j.val s
  | .hex m => readHex m.val s

/-- RegAccess: width and offset are checked before anything else (R210). -/
def regAccess (dir : Dir) (width off : Nat) (v : Word) (s : State) : Host.Outcome State Fault Refusal :=
  if width ≠ 4 then .next (badAccess dir s)
  else
    match regAt off, dir with
    | none, dir => .next (badAccess dir s)
    | some r, .wr => regWrite r v s
    | some r, .rd => .next (regRead r s)

/-- The store of an accepted MSG write: a byte, the low 8 bits of the data, or a word in big-endian lanes (R58, R211). -/
def msgStore (width addr : Nat) (v : Word) (m : Memory) : Memory :=
  if width = 1 then Memory.write m addr (v.setWidth 8) else Memory.writeWord m addr v

/-- MemWrite (R211). -/
def msgWrite (width addr : Nat) (v : Word) (s : State) : State :=
  if msgAccessOk (capacity s) width addr then
    if isBusy s.phase then raiseFault .busyViolation s else setMsg (msgStore width addr v s.msg) s
  else badAccess .wr s

/-- MemReadHost (R212). A byte is returned in bits 7:0. -/
def msgRead (width addr : Nat) (s : State) : State :=
  if msgAccessOk (capacity s) width addr then
    respond (some (if width = 1 then (msgByte s addr).setWidth 32 else msgWord s addr)) s
  else badAccess .rd s

/-- A MSG transaction (R71). -/
def msgAccess (dir : Dir) (width addr : Nat) (v : Word) (s : State) : State :=
  match dir with
  | .rd => msgRead width addr s
  | .wr => msgWrite width addr v s

/-- One host transaction (R70, R71). What the previous one returned is gone. -/
def transact (x : Transaction) (s : State) : Host.Outcome State Fault Refusal :=
  match x.space with
  | .reg => regAccess x.dir x.width x.addr x.data (respond none s)
  | .msg => .next (msgAccess x.dir x.width x.addr x.data (respond none s))

end Sys2Proof.Machine
end

