-- ==== Sys2Proof/Machine/HostProgram.lean ====
section
/-! DEFINITION. The host: its program's notation (30_encoding.md R79, R80) as functions to lines, and what it does when it
moves. -/

namespace Sys2Proof.Machine

/-- WR off, v (R79). -/
def wrLine (off : Nat) (v : DataOperand) : HostLine := .access .reg .wr 4 off v none

/-- RD off -> x, or RD off alone (R79). -/
def rdLine (off : Nat) (bind : Option Nat) : HostLine := .access .reg .rd 4 off (.literal 0) bind

/-- MWR8 a, b (R79). -/
def mwr8Line (a : Nat) (b : DataOperand) : HostLine := .access .msg .wr 1 a b none

/-- MWR32 a, v (R79). -/
def mwr32Line (a : Nat) (v : DataOperand) : HostLine := .access .msg .wr 4 a v none

/-- MRD8 a -> x, or MRD8 a alone. R79 says that a read may bind its result but writes the binding form for RD and MRD32
only; that MRD8 binds too is a DESIGN CHOICE, safe (log entry 13). -/
def mrd8Line (a : Nat) (bind : Option Nat) : HostLine := .access .msg .rd 1 a (.literal 0) bind

/-- MRD32 a -> x, or MRD32 a alone (R79). -/
def mrd32Line (a : Nat) (bind : Option Nat) : HostLine := .access .msg .rd 4 a (.literal 0) bind

/-- CMD NOP, CMD START and CMD CLEAR: a write of the command word to CMD (R80). -/
def cmdLine (i : Instr) : HostLine := wrLine (regOffset .cmd) (.literal (encode i))

/-- SETLEN L (R80). -/
def setLen (L : Nat) : List HostLine :=
  [wrLine (regOffset .lenLo) (.literal (BitVec.ofNat 32 (L % 2 ^ 32))),
   wrLine (regOffset .lenHi) (.literal (BitVec.ofNat 32 (L / 2 ^ 32)))]

/-- LOADMSG a, bytes: a word write for each group of four bytes, a byte write for each of the rest. R80 gives it for an
address that is a multiple of 4. -/
def loadMsg (a : Nat) : List Byte → List HostLine
  | b0 :: b1 :: b2 :: b3 :: rest => mwr32Line a (.literal (packBytes b0 b1 b2 b3)) :: loadMsg (a + 4) rest
  | [b0, b1, b2] =>
    [mwr8Line a (.literal (b0.setWidth 32)), mwr8Line (a + 1) (.literal (b1.setWidth 32)),
     mwr8Line (a + 2) (.literal (b2.setWidth 32))]
  | [b0, b1] => [mwr8Line a (.literal (b0.setWidth 32)), mwr8Line (a + 1) (.literal (b1.setWidth 32))]
  | [b0] => [mwr8Line a (.literal (b0.setWidth 32))]
  | [] => []

/-- WAITDONE (R80). -/
def waitDone : HostLine := .poll (regOffset .status) 0x00000006 .nonzero

/-- The START command of an algorithm (R75). -/
def startCommand : Alg → Instr
  | .sha1 => .startSha1
  | .sha224 => .startSha224
  | .sha256 => .startSha256

/-- HASH alg, L (R80). -/
def hash (alg : Alg) (L : Nat) : List HostLine := setLen L ++ [cmdLine (startCommand alg), waitDone]

/-- The host program that computes a digest of M and reads its 2k HEX words into variables 0, 1, ... (R81). -/
def digestProgram (alg : Alg) (M : List Byte) : List HostLine :=
  loadMsg 0 M ++ hash alg M.length ++
    (List.range (2 * outWords alg)).map fun m => rdLine (0x080 + 4 * m) (some m)

/-- The host's move: its next transaction. A POLL stays the next line until its test holds; one whose state is never
reached hangs the host program, not the core (R80, R226). With no line left the host does nothing. -/
def hostMove (s : State) : Host.Outcome State Fault Refusal :=
  match s.program with
  | [] => .next s
  | .access space dir width addr data bind :: rest =>
    onNext (transact ⟨space, dir, width, addr, operandValue s data⟩ { s with program := rest })
      fun u => .next (bindResponse bind u)
  | .poll off mask test :: rest =>
    onNext (transact ⟨.reg, .rd, 4, off, 0⟩ s) fun u =>
      .next (if (u.rdata.map (pollHolds mask test)).getD false then { u with program := rest } else u)

end Sys2Proof.Machine
end

