-- ==== Sys2Proof/Machine/Compression.lean ====
section
/-! DEFINITION. One round and the add-back of the SHA-1 core (42_sha1_compression.md) and of the SHA-256 core
(43_sha2_compression.md), on the registers a..h = v[0..7] (10_state.md R23). -/

namespace Sys2Proof.Machine

/-- Choice (R143). -/
def ch (x y z : Word) : Word := (x &&& y) ^^^ (~~~x &&& z)

/-- Parity (R143). -/
def parity (x y z : Word) : Word := x ^^^ y ^^^ z

/-- Majority (R143). -/
def maj (x y z : Word) : Word := (x &&& y) ^^^ (x &&& z) ^^^ (y &&& z)

/-- f_p, the SHA-1 function of phase p = floor(t / 20): choice, parity, majority, parity (R144). -/
def phaseFunction : Nat → Word → Word → Word → Word
  | 0 => ch
  | 1 => parity
  | 2 => maj
  | _ => parity

/-- Σ0 (R164). -/
def bigSigma0 (x : Word) : Word := rotr x 2 ^^^ rotr x 13 ^^^ rotr x 22

/-- Σ1 (R165). -/
def bigSigma1 (x : Word) : Word := rotr x 6 ^^^ rotr x 11 ^^^ rotr x 25

/-- The SHA-1 round t with schedule word w. Words 5 to 7 are untouched (R23, R145). -/
def round1 (t : Nat) (w : Word) (v : Vector Word 8) : Vector Word 8 :=
  #v[rotl v[0] 5 + phaseFunction (t / 20) v[1] v[2] v[3] + v[4] + k1 (t / 20) + w,
     v[0], rotl v[1] 30, v[2], v[3], v[5], v[6], v[7]]

/-- T1 of the SHA-2 round t with schedule word w (R168). -/
def temp1 (t : Nat) (w : Word) (v : Vector Word 8) : Word :=
  v[7] + bigSigma1 v[4] + ch v[4] v[5] v[6] + k256 t + w

/-- T2 of the SHA-2 round (R168). -/
def temp2 (v : Vector Word 8) : Word := bigSigma0 v[0] + maj v[0] v[1] v[2]

/-- The SHA-2 round t with schedule word w (R168). -/
def round2 (t : Nat) (w : Word) (v : Vector Word 8) : Vector Word 8 :=
  #v[temp1 t w v + temp2 v, v[0], v[1], v[2], v[3] + temp1 t w v, v[4], v[5], v[6]]

/-- The add-back of the first size words, each wrapping by itself; the others are untouched (R146, R169). -/
def addBack (size : Nat) (H work : Vector Word 8) : Vector Word 8 :=
  Vector.ofFn fun j => if j.val < size then H[j] + work[j] else H[j]

/-- LOAD's copy of H[0..S-1] into the working state; the other words are untouched (R23, R106). -/
def copyState (size : Nat) (H work : Vector Word 8) : Vector Word 8 :=
  Vector.ofFn fun j => if j.val < size then H[j] else work[j]

end Sys2Proof.Machine
end

