-- ==== Sys2Proof/Machine/Schedule.lean ====
section
/-! DEFINITION. The Message Schedule Expander (41_schedule_expander.md). -/

namespace Sys2Proof.Machine

/-- σ0 (R120). -/
def sigma0 (x : Word) : Word := rotr x 7 ^^^ rotr x 18 ^^^ shr x 3

/-- σ1 (R121). -/
def sigma1 (x : Word) : Word := rotr x 17 ^^^ rotr x 19 ^^^ shr x 10

/-- Entry i of the SHA-1 schedule, from the entries before it (R122). -/
def sched1Entry (W : Vector Word 80) (i : Nat) : Word :=
  rotl (wordAt W (i - 3) ^^^ wordAt W (i - 8) ^^^ wordAt W (i - 14) ^^^ wordAt W (i - 16)) 1

/-- Entry i of the SHA-2 schedule, from the entries before it (R123). -/
def sched2Entry (W : Vector Word 80) (i : Nat) : Word :=
  sigma1 (wordAt W (i - 2)) + wordAt W (i - 7) + sigma0 (wordAt W (i - 15)) + wordAt W (i - 16)

/-- The first count writes of a schedule expansion, W[16], W[17], ..., in increasing index, each seeing the writes before
it (R124, R125). -/
def expandBy (entry : Vector Word 80 → Nat → Word) : Nat → Vector Word 80 → Vector Word 80
  | 0, W => W
  | count + 1, W =>
    let V := expandBy entry count W
    V.setIfInBounds (16 + count) (entry V (16 + count))

/-- EXPAND for SHA-1: W[16..79] (R125). -/
def expand1 (W : Vector Word 80) : Vector Word 80 := expandBy sched1Entry 64 W

/-- EXPAND for SHA-2: W[16..63] (R125). -/
def expand2 (W : Vector Word 80) : Vector Word 80 := expandBy sched2Entry 48 W

/-- LOAD's write of W[0..15]: "First 16 entries copy the Block verbatim" (R24, R106). -/
def loadBlock (B : Vector Word 16) (W : Vector Word 80) : Vector Word 80 :=
  Vector.ofFn fun i => if i.val < 16 then wordAt B i.val else W[i]

end Sys2Proof.Machine
end

