-- ==== Sys2Proof/Machine/Digest.lean ====
section
/-! DEFINITION. The mathematical content of the core as a pure function of the algorithm and the message (00_scope.md
R12, 42_sha1_compression.md R147, 43_sha2_compression.md R170). The step function does not use this file: it is what the
sequencer's run is claimed to compute (45_host_commands.md R222). -/

namespace Sys2Proof.Machine

/-- The first count rounds of SHA-1 over a schedule (R147). -/
def rounds1 (W : Vector Word 80) : Nat → Vector Word 8 → Vector Word 8
  | 0, v => v
  | t + 1, v => round1 t (wordAt W t) (rounds1 W t v)

/-- The first count rounds of SHA-2 over a schedule (R170). -/
def rounds2 (W : Vector Word 80) : Nat → Vector Word 8 → Vector Word 8
  | 0, v => v
  | t + 1, v => round2 t (wordAt W t) (rounds2 W t v)

/-- A schedule file holding one block and nothing else. -/
def blockFile (B : Vector Word 16) : Vector Word 80 := loadBlock B (Vector.replicate 80 0)

/-- Compress1(H, B) on H[0..4]; H[5..7] pass through (R147). -/
def compress1 (H : Vector Word 8) (B : Vector Word 16) : Vector Word 8 :=
  addBack 5 H (rounds1 (expand1 (blockFile B)) 80 H)

/-- Compress2(H, B) (R170). -/
def compress2 (H : Vector Word 8) (B : Vector Word 16) : Vector Word 8 :=
  addBack 8 H (rounds2 (expand2 (blockFile B)) 64 H)

/-- Compress(alg, H, B) (R12). -/
def compress : Alg → Vector Word 8 → Vector Word 16 → Vector Word 8
  | .sha1 => compress1
  | .sha224 => compress2
  | .sha256 => compress2

/-- FoldCompress(alg, H, Bs) (R12). -/
def foldCompress (alg : Alg) : Vector Word 8 → List (Vector Word 16) → Vector Word 8
  | H, [] => H
  | H, B :: Bs => foldCompress alg (compress alg H B) Bs

/-- The final HashState of a message; only its first S words mean anything (R12). -/
def digestState (alg : Alg) (M : List Byte) : Vector Word 8 :=
  foldCompress alg (loadIv alg (Vector.replicate 8 0)) (blocks M)

/-- Digest(alg, M) (R12). -/
def digest (alg : Alg) (M : List Byte) : List HexChar := format (digestState alg M) (outWords alg)

/-- The sequencer steps from START to DONE: 83 n + 1 for SHA-1, 67 n + 1 for SHA-2 (R148, R171). -/
def stepCount (alg : Alg) (n : Nat) : Nat :=
  match alg with
  | .sha1 => 83 * n + 1
  | .sha224 => 67 * n + 1
  | .sha256 => 67 * n + 1

end Sys2Proof.Machine
end

