-- ==== Sys2Proof/Machine/Sequencer.lean ====
section
/-! DEFINITION. The sequencer's operations (30_encoding.md R78), each one atomic step with its "requires" line as a test,
and the choice of the one enabled step (45_host_commands.md R220, R221). All writes of a step take effect together (00_scope.md
R11). -/

namespace Sys2Proof.Machine

/-- An operation in a state that breaks its "requires" line, or a bound of R35 tested beside it (log entry 8). -/
def stuckAt (op : SeqOp) : Host.Outcome State Fault Refusal := .fault (.sequencerRequires op)

/-- LOAD (R106). Every byte it reads is below lenL, which must lie inside MSG (R60). R106's requires line does not name that
bound, which R35 gives: that the model stops on it is a DESIGN CHOICE, safe (log entry 8). -/
def seqLoad (s : State) : Host.Outcome State Fault Refusal :=
  if s.blk < s.n ∧ s.lenL ≤ capacity s then
    .next { s with
      W := loadBlock (block (msgByte s) s.lenL s.n s.blk) s.W
      work := copyState (stateWords s.algL) s.H s.work
      t := 0
      phase := .expand }
  else stuckAt .load

/-- EXPAND (R125). -/
def seqExpand (s : State) : Host.Outcome State Fault Refusal :=
  match s.algL with
  | .sha1 => .next { s with W := expand1 s.W, phase := .round }
  | .sha224 => .next { s with W := expand2 s.W, phase := .round }
  | .sha256 => .next { s with W := expand2 s.W, phase := .round }

/-- ROUND1 (R145). -/
def seqRound1 (s : State) : Host.Outcome State Fault Refusal :=
  if s.t < 80 then
    .next { s with
      work := round1 s.t (wordAt s.W s.t) s.work
      phase := if s.t + 1 = 80 then .addback else .round
      t := s.t + 1 }
  else stuckAt .round1

/-- ROUND2 (R168). -/
def seqRound2 (s : State) : Host.Outcome State Fault Refusal :=
  if s.t < 64 then
    .next { s with
      work := round2 s.t (wordAt s.W s.t) s.work
      phase := if s.t + 1 = 64 then .addback else .round
      t := s.t + 1 }
  else stuckAt .round2

/-- ADDBACK1 (R146). R146's requires line has no clause on blk. With blk >= n, which R21 and R35 exclude, R146 goes to LOAD
and R221 to FORMAT; that the model stops there is a DESIGN CHOICE, safe (log entry 8). -/
def seqAddback1 (s : State) : Host.Outcome State Fault Refusal :=
  if s.t = 80 ∧ s.blk < s.n then
    .next { s with
      H := addBack 5 s.H s.work
      phase := if s.blk + 1 = s.n then .format else .load
      blk := s.blk + 1 }
  else stuckAt .addback1

/-- ADDBACK2 (R169). R169's requires line has no clause on blk. With blk >= n, which R21 and R35 exclude, R169 goes to LOAD
and R221 to FORMAT; that the model stops there is a DESIGN CHOICE, safe (log entry 8). -/
def seqAddback2 (s : State) : Host.Outcome State Fault Refusal :=
  if s.t = 64 ∧ s.blk < s.n then
    .next { s with
      H := addBack 8 s.H s.work
      phase := if s.blk + 1 = s.n then .format else .load
      blk := s.blk + 1 }
  else stuckAt .addback2

/-- FORMAT (R193). -/
def seqFormat (s : State) : Host.Outcome State Fault Refusal :=
  if s.blk = s.n then
    .next { s with
      hexbuf := formatInto s.H (outWords s.algL) s.hexbuf
      phase := .done }
  else stuckAt .format

/-- ROUND, by the algorithm latched (R78, R221). -/
def seqRound (s : State) : Host.Outcome State Fault Refusal :=
  match s.algL with
  | .sha1 => seqRound1 s
  | .sha224 => seqRound2 s
  | .sha256 => seqRound2 s

/-- ADDBACK, by the algorithm latched (R78, R221). -/
def seqAddback (s : State) : Host.Outcome State Fault Refusal :=
  match s.algL with
  | .sha1 => seqAddback1 s
  | .sha224 => seqAddback2 s
  | .sha256 => seqAddback2 s

/-- The sequencer's move: the one step enabled in a BUSY phase; in IDLE, DONE and FAULT it has none (R220, R221). -/
def sequencerMove (s : State) : Host.Outcome State Fault Refusal :=
  match s.phase with
  | .idle => .next s
  | .load => seqLoad s
  | .expand => seqExpand s
  | .round => seqRound s
  | .addback => seqAddback s
  | .format => seqFormat s
  | .done => .next s
  | .fault => .next s

end Sys2Proof.Machine
end

