-- ==== Sys2Proof/Machine/Moves.lean ====
section
/-! DEFINITION. Whose move it is (20_memory.md R63, 45_host_commands.md R225): the schedule in State, and, past its end, a
default that is weakly fair to the sequencer. -/

namespace Sys2Proof.Machine

/-- The next move's owner: the head of the schedule; past its end the sequencer while BUSY, else the host. -/
def nextTurn (s : State) : Turn :=
  match s.turns with
  | [] => if isBusy s.phase then .sequencer else .host
  | w :: _ => w

/-- The schedule after the next move. -/
def dropTurn (s : State) : State := { s with turns := s.turns.tail }

/-- One move, by its owner: the reset input may be asserted between any two atomic events (R260). -/
def move (w : Turn) (s : State) : Host.Outcome State Fault Refusal :=
  match w with
  | .host => hostMove s
  | .sequencer => sequencerMove s
  | .reset => .next (resetCore s)

/-- The host's next transaction becomes a REG_WR of v at CMD, and the next move the host's. -/
def issueCommand (v : Word) (s : State) : State :=
  { s with
    turns := .host :: s.turns
    program := wrLine (regOffset .cmd) (.literal v) :: s.program }

end Sys2Proof.Machine
end

