-- ==== Sys2Proof/Machine/Step.lean ====
section
/-! DEFINITION. One step: the next atomic event of the run, a host transaction, a sequencer operation or a reset
(20_memory.md R63). -/

namespace Sys2Proof.Machine

/-- One step of the machine. -/
def step (s : State) : Host.Outcome State Fault Refusal := move (nextTurn s) (dropTurn s)

/-- The state s with a command word placed where the next step takes it: the core fetches nothing (R62), so this is the
host's next transaction, a write of the word to CMD (R70, R77). -/
def State.withFetchWord (s : State) (nbits w : Nat) : State := issueCommand (BitVec.ofNat 32 (w % 2 ^ nbits)) s

end Sys2Proof.Machine
end

