-- ==== Sys2Proof/Safety.lean ====
section
/-! DEFINITION. The terms claims about the machine use: the invariant of every state a run can reach, and the runs of a
digest under any schedule. -/

namespace Sys2Proof.Machine

/-- The invariant of the machine (10_state.md R21, R28-R30, R35, R206; 44_digest_formatter.md R193). -/
structure Inv (s : State) : Prop where
  /-- The message buffer is in its canonical form. -/
  memory : Memory.wf s.msg = true
  /-- Every written byte lies inside MSG (R51, R60). -/
  inBuffer : ∀ a, (Memory.read s.msg a).isSome = true → a < capacity s
  /-- The host's variables are in their canonical form. -/
  hostVars : rising s.vars = true
  /-- A cause is recorded exactly in FAULT (R28, R29). -/
  cause : s.cause = .none ↔ s.phase ≠ .fault
  /-- The ranges of R21. -/
  blockCount : 1 ≤ s.n
  blockIndex : s.blk ≤ s.n
  roundCounter : s.t ≤ 80
  latchedLength : s.lenL ≤ capacity s
  /-- While BUSY, n = NBLOCKS(lenL) (R35), and LEN still holds the latched length (R206). -/
  busyBlocks : isBusy s.phase = true → s.n = nblocks s.lenL
  busyLength : isBusy s.phase = true → s.lenL = messageLength s
  /-- "In general 0 <= t <= R(algL)", while BUSY (R35). -/
  busyRound : isBusy s.phase = true → s.t ≤ roundCount s.algL
  /-- blk < n until the last ADDBACK, which makes it n (R35). -/
  loadBlock : s.phase = .load → s.blk < s.n
  expandBlock : s.phase = .expand → s.blk < s.n
  roundBlock : s.phase = .round → s.blk < s.n
  addbackBlock : s.phase = .addback → s.blk < s.n
  formatBlock : s.phase = .format → s.blk = s.n
  /-- The round counter by phase (R35, R106). -/
  expandRound : s.phase = .expand → s.t = 0
  roundRound : s.phase = .round → s.t < roundCount s.algL
  addbackRound : s.phase = .addback → s.t = roundCount s.algL
  formatRound : s.phase = .format → s.t = roundCount s.algL
  /-- In DONE the buffer holds the formatted HashState (R193). -/
  formatted : s.phase = .done → s.hexbuf.toList.take (8 * outWords s.algL) = format s.H (outWords s.algL)

/-- The command word a host line writes to CMD, if the line is such a write (R70). -/
def commandOf (s : State) : HostLine → Option Word
  | .access .reg .wr 4 0x000 data _ => some (operandValue s data)
  | .access _ _ _ _ _ _ => none
  | .poll _ _ _ => none

/-- The runs of one digest under any schedule and any host program: every step but the last leaves a BUSY state, and no
step enters FAULT or IDLE, that is, no transaction faults, and no CLEAR and no reset ends the digest (R222, R223). -/
inductive DigestRun : State → State → Prop where
  | start (s : State) : DigestRun s s
  | step {s u v : State} : DigestRun s u → isBusy u.phase = true → Machine.step u = .next v →
      v.phase ≠ .fault → v.phase ≠ .idle → DigestRun s v

/-- A state fresh for a START whose message is M: IDLE or DONE, LEN holding the length of M, within the buffer, and every
byte of M written (R222, R262). -/
def Ready (M : List Byte) (s : State) : Prop :=
  (s.phase = .idle ∨ s.phase = .done) ∧ messageLength s = M.length ∧ M.length ≤ capacity s ∧
    ∀ q, q < M.length → Memory.read s.msg q = M[q]?

end Sys2Proof.Machine
end

