-- ==== Sys2Proof/Certificates/Slice0/Obligations.lean ====
section
/-! DEFINITION. The statements for the provers, in the order of the spec's files: encoding, commands, faults, registers,
message buffer, partitioner, schedule and compression, formatter, sequencer, whole machine. Where a next state is written
`{ s with … }`, every field not named in it, and so every register and every byte of memory, is unchanged.
rdata is the model's own field (log entry 7): what the last host transaction returned, none for a write. -/

open Sys2Proof Sys2Proof.Machine

/-! Encoding and the step -/

/-- The five command words, written out bit by bit from R72 and R75, and words next to them that R76 reserves. -/
def Obligations.TableWordsDecode : Prop :=
  decode 0b00000000000000000000000000_00_0000 = .command .nop ∧
  decode 0b00000000000000000000000000_00_0001 = .command .startSha1 ∧
  decode 0b00000000000000000000000000_01_0001 = .command .startSha224 ∧
  decode 0b00000000000000000000000000_10_0001 = .command .startSha256 ∧
  decode 0b00000000000000000000000000_00_0010 = .command .clear ∧
  decode 0b00000000000000000000000000_11_0001 = .startReservedAlg ∧
  decode 0b00000000000000000000000000_01_0010 = .illegal ∧
  decode 0b00000000000000000000000001_00_0001 = .illegal ∧
  decode 0b10000000000000000000000000_00_0001 = .illegal

/-- R75, R76: over all 2^32 words the decoder accepts the five words of the table, each as its own row, and names the
reserved-ALG word; every other word is ILLEGAL. -/
def Obligations.DecodeAcceptsExactlyTheFiveWords : Prop :=
  ∀ v : Word,
    (∀ i : Instr, decode v = .command i ↔
      (v, i) ∈ [((0x00000000 : Word), Instr.nop), (0x00000001, .startSha1), (0x00000011, .startSha224),
        (0x00000021, .startSha256), (0x00000002, .clear)]) ∧
    (decode v = .startReservedAlg ↔ v = 0x00000031) ∧
    (decode v = .illegal ↔ v ∉ [(0x00000000 : Word), 0x00000001, 0x00000011, 0x00000021, 0x00000002, 0x00000031])

/-- R72, R73, R75: decode and encode agree on every word: a command is decoded from its own word and from no other. -/
def Obligations.DecodeAndEncodeAgree : Prop :=
  ∀ (i : Instr) (v : Word), decode v = .command i ↔ v = encode i

/-- R70, R79: when it is the host's move and its next line is an access, of any space, direction, width and address, with
any data operand, the step is that transaction on the state with the turn and the line taken, and then the value a read
returned is bound to the line's variable, if it names one. An operand is its number, or what its variable holds. R70, R73,
R200: when the line writes to CMD a word that decodes to i, the step is exec of i. That every read may bind is the model's
choice for MRD8 (log entry 13). -/
def Obligations.StepRunsDecodedCommand : Prop :=
  ∀ (s : State) (space : Space) (dir : Dir) (width addr : Nat) (data : DataOperand) (bind : Option Nat)
    (rest : List HostLine), nextTurn s = .host → s.program = .access space dir width addr data bind :: rest →
    (∃ w u : State,
      transact ⟨space, dir, width, addr, operandValue s data⟩ { s with turns := s.turns.tail, program := rest } = .next w ∧
      step s = .next u ∧ u = { w with vars := u.vars } ∧
      (∀ x v, bind = some x → w.rdata = some v →
        lookup u.vars x = some v ∧ ∀ y, y ≠ x → lookup u.vars y = lookup w.vars y) ∧
      (bind = none ∨ w.rdata = none → u.vars = w.vars)) ∧
    (∀ v, data = .literal v → operandValue s data = v) ∧
    (∀ x v, data = .var x → lookup s.vars x = some v → operandValue s data = v) ∧
    (∀ i, space = .reg → dir = .wr → width = 4 → addr = 0x000 → decode (operandValue s data) = .command i →
      step s = exec i { s with turns := s.turns.tail, program := rest, rdata := none })

/-- R20, R63, R225: a step is one move of the host or of the sequencer, whichever the schedule names. R260: or of the reset
input (that it has turns of the same schedule is log entry 11). Past the schedule's end the sequencer moves while BUSY and
the host otherwise (that default is the model's, log entry 2). -/
def Obligations.StepFollowsTheSchedule : Prop :=
  ∀ (s : State) (rest : List Turn),
    (s.turns = .host :: rest → step s = hostMove { s with turns := rest }) ∧
    (s.turns = .sequencer :: rest → step s = sequencerMove { s with turns := rest }) ∧
    (s.turns = .reset :: rest → step s = .next (resetCore { s with turns := rest })) ∧
    (s.turns = [] → s.phase ∈ [Phase.load, .expand, .round, .addback, .format] → step s = sequencerMove s) ∧
    (s.turns = [] → s.phase ∈ [Phase.idle, .done, .fault] → step s = hostMove s)

/-! Commands (R200-R203) -/

/-- R201: NOP, the CMD word 0x00000000, completes in every state and changes nothing; as a transaction it returns no
value. -/
def Obligations.NopCompletes : Prop :=
  ∀ s : State, encode .nop = 0x00000000 ∧ exec .nop s = .next s ∧
    transact ⟨.reg, .wr, 4, 0x000, 0x00000000⟩ s = .next { s with rdata := none }

/-- R203, R243: CLEAR, the CMD word 0x00000002, completes in every phase, FAULT too; STATUS becomes 0, and LEN, MSG and
every other register keep their values. -/
def Obligations.ClearCompletes : Prop :=
  ∀ s : State, encode .clear = 0x00000002 ∧ exec .clear s = .next { s with phase := .idle, cause := .none } ∧
    transact ⟨.reg, .wr, 4, 0x000, 0x00000002⟩ s = .next { s with phase := .idle, cause := .none, rdata := none } ∧
    statusWord { s with phase := .idle, cause := .none } = 0x00000000

/-- R202, R102, R141: START.SHA1 accepted. H[5..7] keep their values.
That START writes t, with a free value in the bound of R35, is the model's reading (log entry 10). -/
def Obligations.StartSha1Completes : Prop :=
  ∀ s : State, (s.phase = .idle ∨ s.phase = .done) → messageLength s ≤ capacity s →
    exec .startSha1 s = .next { s with
      algL := .sha1
      lenL := s.lenHi.toNat * 2 ^ 32 + s.lenLo.toNat
      n := (s.lenHi.toNat * 2 ^ 32 + s.lenLo.toNat + 8) / 64 + 1
      blk := 0
      t := Config.freeRound s.draws % 81
      H := #v[0x67452301, 0xEFCDAB89, 0x98BADCFE, 0x10325476, 0xC3D2E1F0, s.H[5], s.H[6], s.H[7]]
      phase := .load
      draws := s.draws + 1 }

/-- R202, R102, R162: START.SHA224 accepted.
That START writes t, with a free value in the bound of R35, is the model's reading (log entry 10). -/
def Obligations.StartSha224Completes : Prop :=
  ∀ s : State, (s.phase = .idle ∨ s.phase = .done) → messageLength s ≤ capacity s →
    exec .startSha224 s = .next { s with
      algL := .sha224
      lenL := s.lenHi.toNat * 2 ^ 32 + s.lenLo.toNat
      n := (s.lenHi.toNat * 2 ^ 32 + s.lenLo.toNat + 8) / 64 + 1
      blk := 0
      t := Config.freeRound s.draws % 65
      H := #v[0xC1059ED8, 0x367CD507, 0x3070DD17, 0xF70E5939, 0xFFC00B31, 0x68581511, 0x64F98FA7, 0xBEFA4FA4]
      phase := .load
      draws := s.draws + 1 }

/-- R202, R102, R161: START.SHA256 accepted.
That START writes t, with a free value in the bound of R35, is the model's reading (log entry 10). -/
def Obligations.StartSha256Completes : Prop :=
  ∀ s : State, (s.phase = .idle ∨ s.phase = .done) → messageLength s ≤ capacity s →
    exec .startSha256 s = .next { s with
      algL := .sha256
      lenL := s.lenHi.toNat * 2 ^ 32 + s.lenLo.toNat
      n := (s.lenHi.toNat * 2 ^ 32 + s.lenLo.toNat + 8) / 64 + 1
      blk := 0
      t := Config.freeRound s.draws % 65
      H := #v[0x6A09E667, 0xBB67AE85, 0x3C6EF372, 0xA54FF53A, 0x510E527F, 0x9B05688C, 0x1F83D9AB, 0x5BE0CD19]
      phase := .load
      draws := s.draws + 1 }

/-- R202, R242: a START is ignored in FAULT, refused with BUSY_VIOLATION while BUSY, and refused with LENGTH_RANGE when
the length exceeds MSG_CAP; nothing but phase and cause changes. -/
def Obligations.StartRefusals : Prop :=
  ∀ (i : Instr) (s : State), i ∈ [Instr.startSha1, .startSha224, .startSha256] →
    (s.phase = .fault → exec i s = .next s) ∧
    (s.phase ∈ [Phase.load, .expand, .round, .addback, .format] →
      exec i s = .next { s with cause := .busyViolation, phase := .fault }) ∧
    ((s.phase = .idle ∨ s.phase = .done) → capacity s < messageLength s →
      exec i s = .next { s with cause := .lengthRange, phase := .fault })

/-- The frame of the five commands (R201-R203): what no command changes, what NOP and CLEAR leave
besides, and that nothing but an accepted START, which enters LOAD, changes t and the count of draws. That an accepted
START writes t is the model's reading (log entry 10). -/
def Obligations.CommandFrame : Prop :=
  ∀ (i : Instr) (s u : State), exec i s = .next u →
    (∀ a, Memory.read u.msg a = Memory.read s.msg a) ∧
    u.lenLo = s.lenLo ∧ u.lenHi = s.lenHi ∧ u.work = s.work ∧ u.W = s.W ∧ u.hexbuf = s.hexbuf ∧
    u.msgCap = s.msgCap ∧ u.rdata = s.rdata ∧ u.turns = s.turns ∧ u.program = s.program ∧ u.vars = s.vars ∧
    u.resets = s.resets ∧
    (i = .nop ∨ i = .clear ∨ u.phase ≠ .load → u.t = s.t ∧ u.draws = s.draws) ∧
    (i = .startSha1 → ∀ j, 5 ≤ j → wordAt u.H j = wordAt s.H j) ∧
    (i = .nop ∨ i = .clear →
      u.algL = s.algL ∧ u.lenL = s.lenL ∧ u.n = s.n ∧ u.blk = s.blk ∧ u.H = s.H) ∧
    (i = .nop → u.phase = s.phase ∧ u.cause = s.cause)

/-! Faults (R240-R244) -/

/-- R54, R60, R210, R241: outside FAULT a REG transaction of another width than 4, at an offset that is not a multiple of
4, or at an unmapped offset, enters FAULT with BAD_ACCESS and performs nothing. R242: in FAULT it performs nothing and the
cause stays. A read returns a draw. -/
def Obligations.IllegalRegAccessFaults : Prop :=
  ∀ (x : Transaction) (s : State), x.space = .reg →
    (x.width ≠ 4 ∨ x.addr % 4 ≠ 0 ∨ (0x010 ≤ x.addr ∧ x.addr ≤ 0x03C) ∨ (0x060 ≤ x.addr ∧ x.addr ≤ 0x07C) ∨
      0x0C0 ≤ x.addr) →
    (s.phase ≠ .fault → x.dir = .wr →
      transact x s = .next { s with cause := .badAccess, phase := .fault, rdata := none }) ∧
    (s.phase ≠ .fault → x.dir = .rd → transact x s = .next { s with
      cause := .badAccess, phase := .fault, rdata := some (Config.freeWord s.draws), draws := s.draws + 1 }) ∧
    (s.phase = .fault → x.dir = .wr → transact x s = .next { s with rdata := none }) ∧
    (s.phase = .fault → x.dir = .rd →
      transact x s = .next { s with rdata := some (Config.freeWord s.draws), draws := s.draws + 1 })

/-- R60, R211, R212, R241: outside FAULT a MSG transaction that is neither a byte inside the buffer nor an aligned word
inside it enters FAULT with BAD_ACCESS and performs nothing, BUSY or not. R242: in FAULT it performs nothing and the cause
stays. A read returns a draw. -/
def Obligations.IllegalMsgAccessFaults : Prop :=
  ∀ (x : Transaction) (s : State), x.space = .msg →
    ¬ (x.width = 1 ∧ x.addr < capacity s) → ¬ (x.width = 4 ∧ x.addr % 4 = 0 ∧ x.addr + 4 ≤ capacity s) →
    (s.phase ≠ .fault → x.dir = .wr →
      transact x s = .next { s with cause := .badAccess, phase := .fault, rdata := none }) ∧
    (s.phase ≠ .fault → x.dir = .rd → transact x s = .next { s with
      cause := .badAccess, phase := .fault, rdata := some (Config.freeWord s.draws), draws := s.draws + 1 }) ∧
    (s.phase = .fault → x.dir = .wr → transact x s = .next { s with rdata := none }) ∧
    (s.phase = .fault → x.dir = .rd →
      transact x s = .next { s with rdata := some (Config.freeWord s.draws), draws := s.draws + 1 })

/-- R76: outside FAULT, BUSY or not, a reserved command word enters FAULT with its cause and does nothing else. -/
def Obligations.ReservedWordsFault : Prop :=
  ∀ (v : Word) (s : State), s.phase ≠ .fault →
    (64 ≤ v.toNat ∨ 3 ≤ v.toNat % 16 ∨ (v.toNat % 16 ≠ 1 ∧ v.toNat / 16 % 4 ≠ 0) →
      transact ⟨.reg, .wr, 4, 0x000, v⟩ s =
        .next { s with cause := .illegalCommand, phase := .fault, rdata := none }) ∧
    (v = 0x00000031 →
      transact ⟨.reg, .wr, 4, 0x000, v⟩ s =
        .next { s with cause := .malformedParameterSet, phase := .fault, rdata := none })

/-- R242: in FAULT every CMD write but CLEAR is ignored. -/
def Obligations.FaultIgnoresCommands : Prop :=
  ∀ (v : Word) (s : State), s.phase = .fault → v ≠ 0x00000002 →
    transact ⟨.reg, .wr, 4, 0x000, v⟩ s = .next { s with rdata := none }

/-- R242: in FAULT no transaction but a CMD write of CLEAR leaves the phase or changes the cause, and none changes any
register but LEN_LO and LEN_HI. -/
def Obligations.FaultIsSticky : Prop :=
  ∀ (x : Transaction) (s u : State), s.phase = .fault → transact x s = .next u →
    ¬ (x.space = .reg ∧ x.dir = .wr ∧ x.width = 4 ∧ x.addr = 0x000 ∧ x.data = 0x00000002) →
    u = { s with lenLo := u.lenLo, lenHi := u.lenHi, msg := u.msg, rdata := u.rdata, draws := u.draws }

/-- R243: a step leaves FAULT only when it is a CMD write of CLEAR or the reset input. -/
def Obligations.OnlyClearOrResetLeavesFault : Prop :=
  ∀ s u : State, s.phase = .fault → step s = .next u → u.phase ≠ .fault →
    (nextTurn s = .reset ∨
      (nextTurn s = .host ∧ ∃ l rest, s.program = l :: rest ∧ commandOf s l = some 0x00000002)) ∧
    u.phase = .idle ∧ u.cause = .none

/-- R244: the order of the causes. The form of a transaction is judged before a command word, a command word before
BUSY, and BUSY and LENGTH_RANGE never hold together. -/
def Obligations.FaultPriority : Prop :=
  ∀ (s u : State) (x : Transaction), s.phase ≠ .fault → transact x s = .next u →
    (x.space = .reg → x.width ≠ 4 → u.phase = .fault ∧ u.cause = .badAccess) ∧
    (x.space = .msg → x.width = 4 → x.addr % 4 ≠ 0 → u.phase = .fault ∧ u.cause = .badAccess) ∧
    (x.space = .reg → x.dir = .wr → x.width = 4 → x.addr = 0x000 →
      (decode x.data = .illegal → u.phase = .fault ∧ u.cause = .illegalCommand) ∧
      (decode x.data = .startReservedAlg → u.phase = .fault ∧ u.cause = .malformedParameterSet) ∧
      (isBusy s.phase = true → x.data ∈ [(0x00000001 : Word), 0x00000011, 0x00000021] →
        u.phase = .fault ∧ u.cause = .busyViolation)) ∧
    (Inv s → isBusy s.phase = true → messageLength s ≤ capacity s)

/-! Registers (R28-R32, R204-R210) -/

/-- R28, R29, R205, R240: a STATUS read returns BUSY + 2 DONE + 4 FAULT + 256 CAUSE, CAUSE 0 outside FAULT, with the codes
of R240, and changes nothing. -/
def Obligations.StatusRead : Prop :=
  ∀ (s : State) (d : Word), ∃ w : Word,
    transact ⟨.reg, .rd, 4, 0x004, d⟩ s = .next { s with rdata := some w } ∧
    w.toNat = (if s.phase ∈ [Phase.load, .expand, .round, .addback, .format] then 1 else 0) +
      (if s.phase = .done then 2 else 0) +
      (if s.phase = .fault then
        4 + 256 * (match s.cause with
          | .none => 0
          | .malformedParameterSet => 1
          | .illegalCommand => 2
          | .lengthRange => 3
          | .busyViolation => 4
          | .badAccess => 5)
      else 0)

/-- R204: a write of LEN_LO or LEN_HI, in every phase. -/
def Obligations.LengthWrite : Prop :=
  ∀ (s : State) (v : Word),
    (s.phase ∈ [Phase.load, .expand, .round, .addback, .format] →
      transact ⟨.reg, .wr, 4, 0x008, v⟩ s =
        .next { s with cause := .busyViolation, phase := .fault, rdata := none } ∧
      transact ⟨.reg, .wr, 4, 0x00C, v⟩ s =
        .next { s with cause := .busyViolation, phase := .fault, rdata := none }) ∧
    (s.phase ∈ [Phase.idle, .done, .fault] →
      transact ⟨.reg, .wr, 4, 0x008, v⟩ s = .next { s with lenLo := v, rdata := none } ∧
      transact ⟨.reg, .wr, 4, 0x00C, v⟩ s = .next { s with lenHi := v, rdata := none })

/-- R206: a read of LEN_LO or LEN_HI, in every phase; while BUSY the two hold the length the digest latched. -/
def Obligations.LengthRead : Prop :=
  ∀ (s : State) (d : Word),
    transact ⟨.reg, .rd, 4, 0x008, d⟩ s = .next { s with rdata := some s.lenLo } ∧
    transact ⟨.reg, .rd, 4, 0x00C, d⟩ s = .next { s with rdata := some s.lenHi } ∧
    (Inv s → isBusy s.phase = true → s.lenHi.toNat * 2 ^ 32 + s.lenLo.toNat = s.lenL)

/-- R207: a CMD read. -/
def Obligations.CmdRead : Prop :=
  ∀ (s : State) (d : Word), transact ⟨.reg, .rd, 4, 0x000, d⟩ s = .next { s with rdata := some 0x00000000 }

/-- R208: a write to a read-only register raises BAD_ACCESS and changes nothing else (in FAULT, R242, nothing at all). -/
def Obligations.ReadOnlyWriteFaults : Prop :=
  ∀ (s : State) (off : Nat) (v : Word),
    (off = 0x004 ∨ (∃ j < 8, off = 0x040 + 4 * j) ∨ ∃ m < 16, off = 0x080 + 4 * m) →
    (s.phase ≠ .fault → transact ⟨.reg, .wr, 4, off, v⟩ s =
      .next { s with cause := .badAccess, phase := .fault, rdata := none }) ∧
    (s.phase = .fault → transact ⟨.reg, .wr, 4, off, v⟩ s = .next { s with rdata := none })

/-- R194: a DIGEST_j read, its three cases, with k = 5, 7, 8 of R7, R140 and R160. -/
def Obligations.DigestRead : Prop :=
  ∀ (s : State) (j : Fin 8) (d : Word) (k : Nat),
    k = (match s.algL with | .sha1 => 5 | .sha224 => 7 | .sha256 => 8) →
    (s.phase = .done → j.val < k →
      transact ⟨.reg, .rd, 4, 0x040 + 4 * j.val, d⟩ s = .next { s with rdata := some s.H[j] }) ∧
    (s.phase = .done → k ≤ j.val →
      transact ⟨.reg, .rd, 4, 0x040 + 4 * j.val, d⟩ s = .next { s with rdata := some 0x00000000 }) ∧
    (s.phase ≠ .done →
      transact ⟨.reg, .rd, 4, 0x040 + 4 * j.val, d⟩ s =
        .next { s with rdata := some (Config.freeWord s.draws), draws := s.draws + 1 })

/-- R195, R197, R193: a HEX_m read, its three cases, with k = 5, 7, 8 of R7, R140 and R160; in a state of the invariant the
bytes of HEX_m, bits 31:24 first, are the characters of nibbles 4 (m mod 2) to 4 (m mod 2) + 3 of H[m / 2], most
significant first, where the character of v is 0x30 + v below 10 (R192, R196: '0'..'9') and 0x57 + v from 10 up
('a'..'f'). -/
def Obligations.HexRead : Prop :=
  ∀ (s : State) (m : Fin 16) (d : Word) (k : Nat),
    k = (match s.algL with | .sha1 => 5 | .sha224 => 7 | .sha256 => 8) →
    (s.phase = .done → m.val < 2 * k → ∃ w : Word,
      transact ⟨.reg, .rd, 4, 0x080 + 4 * m.val, d⟩ s = .next { s with rdata := some w } ∧
      (∀ i < 4, byteOfWord w i = ascii (charAt s.hexbuf (4 * m.val + i))) ∧
      (Inv s → ∀ i < 4, ∀ v : Nat, v = (wordAt s.H (m.val / 2)).toNat / 16 ^ (7 - (4 * (m.val % 2) + i)) % 16 →
        w.toNat / 256 ^ (3 - i) % 256 = if v < 10 then 0x30 + v else 0x57 + v)) ∧
    (s.phase = .done → 2 * k ≤ m.val →
      transact ⟨.reg, .rd, 4, 0x080 + 4 * m.val, d⟩ s = .next { s with rdata := some 0x00000000 }) ∧
    (s.phase ≠ .done →
      transact ⟨.reg, .rd, 4, 0x080 + 4 * m.val, d⟩ s =
        .next { s with rdata := some (Config.freeWord s.draws), draws := s.draws + 1 })

/-- R61: a read that raises no fault returns a value and changes no register and no byte of memory. -/
def Obligations.ReadsChangeNothing : Prop :=
  ∀ (x : Transaction) (s u : State), x.dir = .rd → transact x s = .next u → (u.phase = .fault → s.phase = .fault) →
    u = { s with rdata := u.rdata, draws := u.draws } ∧ u.rdata.isSome = true

/-- R53: the register window is the 4096 bytes from REG_BASE. -/
def Obligations.WindowIsFourKilobytesFromBase : Prop :=
  (∀ off, off < 4096 → windowOffset (platformAddress off) = some off) ∧
  (∀ addr off, windowOffset addr = some off → off < 4096 ∧ addr = platformAddress off)

/-! Message buffer (R51, R52, R58, R60, R211, R212) -/

/-- R211, R52: a byte write outside the BUSY phases stores bits 7:0 of the data at the address and nothing else. -/
def Obligations.MsgByteWrite : Prop :=
  ∀ (s : State) (a : Nat) (v : Word), a < capacity s → s.phase ∈ [Phase.idle, .done, .fault] →
    ∃ m : Memory, transact ⟨.msg, .wr, 1, a, v⟩ s = .next { s with msg := m, rdata := none } ∧
      Memory.read m a = some (v.extractLsb' 0 8) ∧
      ∀ c, c ≠ a → Memory.read m c = Memory.read s.msg c

/-- R211, R58: a word write outside the BUSY phases stores four bytes, bits 31:24 at the lowest address, and nothing
else. -/
def Obligations.MsgWordWrite : Prop :=
  ∀ (s : State) (a : Nat) (v : Word), a % 4 = 0 → a + 4 ≤ capacity s → s.phase ∈ [Phase.idle, .done, .fault] →
    ∃ m : Memory, transact ⟨.msg, .wr, 4, a, v⟩ s = .next { s with msg := m, rdata := none } ∧
      Memory.read m a = some (v.extractLsb' 24 8) ∧ Memory.read m (a + 1) = some (v.extractLsb' 16 8) ∧
      Memory.read m (a + 2) = some (v.extractLsb' 8 8) ∧ Memory.read m (a + 3) = some (v.extractLsb' 0 8) ∧
      ∀ c, (c < a ∨ a + 4 ≤ c) → Memory.read m c = Memory.read s.msg c

/-- R211, R263: a legal MSG write while BUSY enters FAULT with BUSY_VIOLATION and writes nothing. -/
def Obligations.MsgWriteWhileBusyFaults : Prop :=
  ∀ (s : State) (w a : Nat) (v : Word), s.phase ∈ [Phase.load, .expand, .round, .addback, .format] →
    (w = 1 ∧ a < capacity s) ∨ (w = 4 ∧ a % 4 = 0 ∧ a + 4 ≤ capacity s) →
    transact ⟨.msg, .wr, w, a, v⟩ s = .next { s with cause := .busyViolation, phase := .fault, rdata := none }

/-- R212, R58, R52: a legal MSG read, in every phase, returns the bytes written, and for a byte never written its draw. -/
def Obligations.MsgReadReturnsBytes : Prop :=
  ∀ (s : State) (a : Nat) (d : Word) (b : Nat → Byte),
    (∀ c, b c = (Memory.read s.msg c).getD (Config.unwrittenByte s.resets c)) →
    (a < capacity s →
      transact ⟨.msg, .rd, 1, a, d⟩ s = .next { s with rdata := some ((b a).setWidth 32) }) ∧
    (a % 4 = 0 → a + 4 ≤ capacity s →
      transact ⟨.msg, .rd, 4, a, d⟩ s =
        .next { s with rdata := some (b a ++ b (a + 1) ++ b (a + 2) ++ b (a + 3)) })

/-- R58: a word write equals the four byte writes of its bytes, in any order. -/
def Obligations.WordWriteIsFourByteWritesInAnyOrder : Prop :=
  ∀ (m : Memory) (a : Nat) (v : Word) (order : List Nat), Memory.wf m = true → order.Perm [0, 1, 2, 3] →
    order.foldl (fun m i => Memory.write m (a + i) (v.extractLsb' (24 - 8 * i) 8)) m = Memory.writeWord m a v

/-! Padder and Block Partitioner (R100-R108) -/

/-- R102: the block count is ceil(((L + 1) / 4 + 2) / 16) with exact division, its two closed forms, and the corner
values the rule lists. -/
def Obligations.BlockCountFormula : Prop :=
  (∀ L : Nat, (nblocks L : Int) = ⌈(((L : ℚ) + 1) / 4 + 2) / 16⌉ ∧ (nblocks L : Int) = ⌈((L : ℚ) + 9) / 64⌉ ∧
    (nblocks L : Int) = ⌊((L : ℚ) + 8) / 64⌋ + 1 ∧ 1 ≤ nblocks L) ∧
  nblocks 0 = 1 ∧ nblocks 55 = 1 ∧ nblocks 56 = 2 ∧ nblocks 64 = 2 ∧ nblocks 119 = 2 ∧ nblocks 120 = 3 ∧
  nblocks (2 ^ 61 - 1) = 2 ^ 55 + 1

/-- R101: the padded view is Pad(M) followed by zeros, and reads the message only below L. -/
def Obligations.PaddedViewIsPadThenZeros : Prop :=
  ∀ (M : List Byte) (q : Nat), paddedByte (fun p => M.getD p 0) M.length q = (pad M).getD q 0x00 ∧
    ∀ byte byte' : Nat → Byte, (∀ p, p < M.length → byte p = byte' p) →
      paddedByte byte M.length q = paddedByte byte' M.length q

/-- R103, R105, R56, R108: in every block but the last all sixteen words are padded bytes; in the last, words 14 and 15
are the two halves of the 64-bit bit length, and the eight bytes they replace are all zero. -/
def Obligations.LengthWordsOnlyInFinalBlock : Prop :=
  ∀ (byte : Nat → Byte) (L i j : Nat), i < nblocks L → j < 16 →
    (i + 1 < nblocks L ∨ j < 14 →
      blockWord byte L (nblocks L) i j =
        paddedByte byte L (64 * i + 4 * j) ++ paddedByte byte L (64 * i + 4 * j + 1) ++
          paddedByte byte L (64 * i + 4 * j + 2) ++ paddedByte byte L (64 * i + 4 * j + 3)) ∧
    (i + 1 = nblocks L → L < 2 ^ 61 →
      (blockWord byte L (nblocks L) i 14).toNat * 2 ^ 32 + (blockWord byte L (nblocks L) i 15).toNat = 8 * L) ∧
    (i + 1 = nblocks L → ∀ q, 64 * i + 56 ≤ q → q < 64 * i + 64 → paddedByte byte L q = 0)

/-- R106: LOAD, with the message read from the buffer and S = 5, 8, 8 of R7, R140 and R160. -/
def Obligations.LoadStep : Prop :=
  ∀ (s : State) (S : Nat), S = (match s.algL with | .sha1 => 5 | .sha224 => 8 | .sha256 => 8) →
    s.phase = .load → s.blk < s.n → s.lenL ≤ capacity s → ∃ (W : Vector Word 80) (work : Vector Word 8),
    sequencerMove s = .next { s with W := W, work := work, t := 0, phase := .expand } ∧
    (∀ j, j < 16 → wordAt W j = blockWord (msgByte s) s.lenL s.n s.blk j) ∧
    (∀ j, 16 ≤ j → wordAt W j = wordAt s.W j) ∧
    (∀ j, j < S → wordAt work j = wordAt s.H j) ∧
    (∀ j, S ≤ j → wordAt work j = wordAt s.work j)

/-! Schedule and compression (R120-R171) -/

/-- R10, R120, R121, R143, R164, R165: the word functions on the examples the rules give. -/
def Obligations.WordFunctionExamples : Prop :=
  (∀ x : Word, ∀ k, 0 < k → k < 32 → rotl x k = rotr x (32 - k)) ∧
  sigma0 0x00000001 = 0x02004000 ∧ sigma0 0x80000000 = 0x11002000 ∧ sigma0 0xFFFFFFFF = 0x1FFFFFFF ∧
  sigma1 0x00000001 = 0x0000A000 ∧ sigma1 0x80000000 = 0x00205000 ∧ sigma1 0xFFFFFFFF = 0x003FFFFF ∧
  bigSigma0 0x00000001 = 0x40080400 ∧ bigSigma0 0x6A09E667 = 0xCE20B47E ∧
  bigSigma1 0x00000001 = 0x04200080 ∧ bigSigma1 0x510E527F = 0x3587272B ∧
  ch 0xFF00FF00 0xF0F0F0F0 0xCCCCCCCC = 0xF0CCF0CC ∧ parity 0xFF00FF00 0xF0F0F0F0 0xCCCCCCCC = 0xC33CC33C ∧
  maj 0xFF00FF00 0xF0F0F0F0 0xCCCCCCCC = 0xFCC0FCC0

/-- R122, R125: EXPAND for SHA-1 completes, and the schedule it leaves satisfies the recurrence in its own entries. -/
def Obligations.ExpandSha1Step : Prop :=
  ∀ s : State, s.phase = .expand → s.algL = .sha1 → ∃ W : Vector Word 80,
    sequencerMove s = .next { s with W := W, phase := .round } ∧
    (∀ i, i < 16 → wordAt W i = wordAt s.W i) ∧
    (∀ i, 16 ≤ i → i < 80 → wordAt W i =
      rotl (wordAt W (i - 3) ^^^ wordAt W (i - 8) ^^^ wordAt W (i - 14) ^^^ wordAt W (i - 16)) 1)

/-- R123, R125: EXPAND for SHA-224 and SHA-256 completes, the schedule satisfies the recurrence, and W[64..79] are not
written. -/
def Obligations.ExpandSha2Step : Prop :=
  ∀ s : State, s.phase = .expand → s.algL ≠ .sha1 → ∃ W : Vector Word 80,
    sequencerMove s = .next { s with W := W, phase := .round } ∧
    (∀ i, i < 16 ∨ 64 ≤ i → wordAt W i = wordAt s.W i) ∧
    (∀ i, 16 ≤ i → i < 64 → wordAt W i =
      sigma1 (wordAt W (i - 2)) + wordAt W (i - 7) + sigma0 (wordAt W (i - 15)) + wordAt W (i - 16))

/-- R145, R144, R142: ROUND1. -/
def Obligations.Round1Step : Prop :=
  ∀ s : State, s.phase = .round → s.algL = .sha1 → s.t < 80 →
    sequencerMove s = .next { s with
      work := #v[
        rotl s.work[0] 5 +
          (if s.t < 20 then ch s.work[1] s.work[2] s.work[3]
            else if s.t < 40 then parity s.work[1] s.work[2] s.work[3]
            else if s.t < 60 then maj s.work[1] s.work[2] s.work[3]
            else parity s.work[1] s.work[2] s.work[3]) +
          s.work[4] +
          (if s.t < 20 then 0x5A827999 else if s.t < 40 then 0x6ED9EBA1 else if s.t < 60 then 0x8F1BBCDC
            else 0xCA62C1D6) +
          wordAt s.W s.t,
        s.work[0], rotl s.work[1] 30, s.work[2], s.work[3], s.work[5], s.work[6], s.work[7]]
      phase := if s.t = 79 then .addback else .round
      t := s.t + 1 }

/-- R168: ROUND2, with the 64 constants of R163, row by row. -/
def Obligations.Round2Step : Prop :=
  ∀ (s : State) (t1 t2 k : Word), s.phase = .round → s.algL ≠ .sha1 → s.t < 64 →
    k = (([0x428A2F98, 0x71374491, 0xB5C0FBCF, 0xE9B5DBA5, 0x3956C25B, 0x59F111F1, 0x923F82A4, 0xAB1C5ED5] ++
      [0xD807AA98, 0x12835B01, 0x243185BE, 0x550C7DC3, 0x72BE5D74, 0x80DEB1FE, 0x9BDC06A7, 0xC19BF174] ++
      [0xE49B69C1, 0xEFBE4786, 0x0FC19DC6, 0x240CA1CC, 0x2DE92C6F, 0x4A7484AA, 0x5CB0A9DC, 0x76F988DA] ++
      [0x983E5152, 0xA831C66D, 0xB00327C8, 0xBF597FC7, 0xC6E00BF3, 0xD5A79147, 0x06CA6351, 0x14292967] ++
      [0x27B70A85, 0x2E1B2138, 0x4D2C6DFC, 0x53380D13, 0x650A7354, 0x766A0ABB, 0x81C2C92E, 0x92722C85] ++
      [0xA2BFE8A1, 0xA81A664B, 0xC24B8B70, 0xC76C51A3, 0xD192E819, 0xD6990624, 0xF40E3585, 0x106AA070] ++
      [0x19A4C116, 0x1E376C08, 0x2748774C, 0x34B0BCB5, 0x391C0CB3, 0x4ED8AA4A, 0x5B9CCA4F, 0x682E6FF3] ++
      [0x748F82EE, 0x78A5636F, 0x84C87814, 0x8CC70208, 0x90BEFFFA, 0xA4506CEB, 0xBEF9A3F7, 0xC67178F2] :
        List Word).getD s.t 0) →
    t1 = s.work[7] + bigSigma1 s.work[4] + ch s.work[4] s.work[5] s.work[6] + k + wordAt s.W s.t →
    t2 = bigSigma0 s.work[0] + maj s.work[0] s.work[1] s.work[2] →
    sequencerMove s = .next { s with
      work := #v[t1 + t2, s.work[0], s.work[1], s.work[2], s.work[3] + t1, s.work[4], s.work[5], s.work[6]]
      phase := if s.t = 63 then .addback else .round
      t := s.t + 1 }

/-- R146, R169, R22: ADDBACK adds the working state into H[0..S-1], word by word mod 2^32, and counts the block; S = 5, 8,
8 and R = 80, 64, 64 of R7, R140 and R160. -/
def Obligations.AddbackStep : Prop :=
  ∀ (s : State) (S R : Nat), S = (match s.algL with | .sha1 => 5 | .sha224 => 8 | .sha256 => 8) →
    R = (match s.algL with | .sha1 => 80 | .sha224 => 64 | .sha256 => 64) →
    s.phase = .addback → s.t = R → s.blk < s.n → ∃ H : Vector Word 8,
    sequencerMove s = .next { s with
      H := H, blk := s.blk + 1, phase := if s.blk + 1 = s.n then .format else .load } ∧
    (∀ j, j < S → (wordAt H j).toNat = ((wordAt s.H j).toNat + (wordAt s.work j).toNat) % 2 ^ 32) ∧
    (∀ j, S ≤ j → wordAt H j = wordAt s.H j)

/-- R193, R191, R190: FORMAT writes Format(H, k), k = 5, 7, 8 of R7, R140 and R160, and leaves the other cells. Character
8j + i is nibble i of H[j], most significant first, and its byte is 0x30 + v for a nibble v below 10 (R192, R196:
'0'..'9') and 0x57 + v from 10 up ('a'..'f'). -/
def Obligations.FormatStep : Prop :=
  ∀ (s : State) (k : Nat), k = (match s.algL with | .sha1 => 5 | .sha224 => 7 | .sha256 => 8) →
    s.phase = .format → s.blk = s.n → ∃ buf : Vector HexChar 64,
    sequencerMove s = .next { s with hexbuf := buf, phase := .done } ∧
    buf.toList.take (8 * k) = format s.H k ∧
    (∀ j < k, ∀ i < 8, ∀ v : Nat, v = (wordAt s.H j).toNat / 16 ^ (7 - i) % 16 →
      (ascii (charAt buf (8 * j + i))).toNat = if v < 10 then 0x30 + v else 0x57 + v) ∧
    (∀ m, 8 * k ≤ m → charAt buf m = charAt s.hexbuf m)

/-! The sequencer (R220, R221) -/

/-- R221: the phase after a sequencer step. -/
def Obligations.SequencerPhaseTable : Prop :=
  ∀ s u : State, sequencerMove s = .next u → u.phase =
    match s.phase with
    | .load => .expand
    | .expand => .round
    | .round => if s.t + 1 = (if s.algL = .sha1 then 80 else 64) then .addback else .round
    | .addback => if s.blk + 1 < s.n then .load else .format
    | .format => .done
    | .idle => .idle
    | .done => .done
    | .fault => .fault

/-- R22-R25, R27, R30, R51: what each sequencer step leaves alone. The inputs, the latched values and the cause never
change, and each file changes only in its own phases. -/
def Obligations.SequencerFrame : Prop :=
  ∀ s u : State, sequencerMove s = .next u →
    u = { s with phase := u.phase, t := u.t, blk := u.blk, H := u.H, work := u.work, W := u.W, hexbuf := u.hexbuf } ∧
    (s.phase ≠ .addback → u.H = s.H ∧ u.blk = s.blk) ∧
    (s.phase ≠ .load → s.phase ≠ .round → u.work = s.work ∧ u.t = s.t) ∧
    (s.phase ≠ .load → s.phase ≠ .expand → u.W = s.W) ∧
    (s.phase ≠ .format → u.hexbuf = s.hexbuf)

/-! The whole machine -/

/-- R37: what reset leaves in the registers the spec gives a reset value, and every byte of MSG UNWRITTEN. -/
def Obligations.ResetValues : Prop :=
  State.reset.phase = .idle ∧ State.reset.cause = .none ∧ statusWord State.reset = 0x00000000 ∧
  State.reset.lenLo = 0x00000000 ∧ State.reset.lenHi = 0x00000000 ∧ ∀ a, Memory.read State.reset.msg a = none

/-- R260: the reset input, at any point, puts the core into its reset state; a digest in progress is abandoned. -/
def Obligations.ResetInput : Prop :=
  ∀ (s : State) (rest : List Turn), s.turns = .reset :: rest → ∃ u, step s = .next u ∧
    u.phase = .idle ∧ u.cause = .none ∧ statusWord u = 0x00000000 ∧ u.lenLo = 0 ∧ u.lenHi = 0 ∧
    (∀ a, Memory.read u.msg a = none) ∧ u.msgCap = s.msgCap ∧ u.turns = rest ∧ u.program = s.program ∧ u.vars = s.vars

/-- R80, R226: a POLL repeats its register read until (value and mask) is the awaited value, and for WAITDONE until the
masked value is not zero; until then the host program stays at the same line. One read a move is the model's choice (log
entry 1). -/
def Obligations.PollRepeatsUntilItsTest : Prop :=
  ∀ (s : State) (off : Nat) (mask : Word) (test : PollTest) (rest : List HostLine),
    s.program = .poll off mask test :: rest → ∃ w v u, transact ⟨.reg, .rd, 4, off, 0⟩ s = .next w ∧ w.rdata = some v ∧
      hostMove s = .next u ∧
      (∀ val, test = .equals val →
        (v &&& mask = val → u = { w with program := rest }) ∧ (v &&& mask ≠ val → u = w)) ∧
      (test = .nonzero → (v &&& mask ≠ 0 → u = { w with program := rest }) ∧ (v &&& mask = 0 → u = w))

/-- The invariant holds after reset. It rests, for the registers R37 leaves unspecified, on the values of log entry 9. -/
def Obligations.InvAtReset : Prop := Inv State.reset

/-- The invariant of R28-R30, R35 and R206 is kept by every step, whatever the host, the schedule and the reset input
do. That it holds in the LOAD an accepted START enters rests on log entry 10: START leaves t within R(algL). -/
def Obligations.StepKeepsInv : Prop :=
  ∀ s u : State, Inv s → step s = .next u → Inv u

/-- R220, R221: from a state of the invariant every step answers a next state; the sequencer never stops the machine. -/
def Obligations.InvStepNeverStops : Prop :=
  ∀ s : State, Inv s → ∃ u, step s = .next u

/-- R22: the HashState changes only in an ADDBACK step of the sequencer, in an accepted START, and in a reset. -/
def Obligations.HashStateWriters : Prop :=
  ∀ s u : State, step s = .next u → u.H ≠ s.H →
    (nextTurn s = .sequencer ∧ s.phase = .addback) ∨
    (nextTurn s = .host ∧ (s.phase = .idle ∨ s.phase = .done) ∧ u.phase = .load ∧
      ∃ l rest, s.program = l :: rest ∧ commandOf s l ∈ [some 0x00000001, some 0x00000011, some 0x00000021]) ∨
    nextTurn s = .reset

/-- R7, R51, R30: no step changes MSG_CAP; only the host and the reset input write MSG, LEN_LO and LEN_HI, and the host
only outside the BUSY phases. -/
def Obligations.InputsBelongToTheCoreWhileBusy : Prop :=
  ∀ s u : State, step s = .next u → u.msgCap = s.msgCap ∧
    (nextTurn s = .sequencer ∨ (nextTurn s = .host ∧ isBusy s.phase = true) →
      (∀ a, Memory.read u.msg a = Memory.read s.msg a) ∧ u.lenLo = s.lenLo ∧ u.lenHi = s.lenHi)

/-- R222, third premise: while BUSY a transaction that neither faults nor is a CLEAR changes nothing but the response. -/
def Obligations.BusyHostCannotDisturbTheDigest : Prop :=
  ∀ (x : Transaction) (s u : State), isBusy s.phase = true → transact x s = .next u → u.phase ≠ .fault →
    ¬ (x.space = .reg ∧ x.dir = .wr ∧ x.width = 4 ∧ x.addr = 0x000 ∧ x.data = 0x00000002) →
    u = { s with rdata := u.rdata, draws := u.draws }

/-- R197(c), R264: while the phase stays DONE, no step changes what DIGEST and HEX show. -/
def Obligations.ResultIsStableInDone : Prop :=
  ∀ s u : State, s.phase = .done → step s = .next u → u.phase = .done →
    u.H = s.H ∧ u.hexbuf = s.hexbuf ∧ u.algL = s.algL

/-- R12, R148, R171, R222: after an accepted START of the message M the core, left to itself, is BUSY for exactly
83 n + 1 (SHA-1) or 67 n + 1 (SHA-2) steps and then DONE, with H[0..S-1] the folded compression of M's blocks and the
formatted digest of M in the buffer. -/
def Obligations.DigestRunComputesTheDigest : Prop :=
  ∀ (alg : Alg) (M : List Byte) (s : State), Ready M s → s.turns = [] → ∃ b u,
    exec (startCommand alg) s = .next b ∧ Sys2Proof.core.run (stepCount alg (nblocks M.length)) b = .next u ∧
    (∀ k < stepCount alg (nblocks M.length), ∃ v, Sys2Proof.core.run k b = .next v ∧ isBusy v.phase = true) ∧
    u.phase = .done ∧ u.algL = alg ∧
    (∀ j < stateWords alg, wordAt u.H j = wordAt (digestState alg M) j) ∧
    u.hexbuf.toList.take (8 * outWords alg) = digest alg M

/-- R222, R225: the same result under every schedule and every host program: whenever a run that starts at the accepted
START, with no fault, no CLEAR and no reset, reaches DONE, it holds the digest of M. -/
def Obligations.DigestIsCorrectUnderEverySchedule : Prop :=
  ∀ (alg : Alg) (M : List Byte) (s b u : State), Ready M s → exec (startCommand alg) s = .next b → DigestRun b u →
    u.phase = .done →
    u.algL = alg ∧ (∀ j < stateWords alg, wordAt u.H j = wordAt (digestState alg M) j) ∧
    u.hexbuf.toList.take (8 * outWords alg) = digest alg M

/-- R197(b), R227: two digests with the same algorithm and the same message give the same DIGEST and HEX reads, whatever
the rest of the two states held before START and whatever the two schedules. -/
def Obligations.DigestDependsOnlyOnAlgorithmAndMessage : Prop :=
  ∀ (alg : Alg) (M : List Byte) (s b u s' b' u' : State), Ready M s → Ready M s' →
    exec (startCommand alg) s = .next b → exec (startCommand alg) s' = .next b' →
    DigestRun b u → DigestRun b' u' → u.phase = .done → u'.phase = .done →
    ∀ (r : Reg), r ≠ .lenLo → r ≠ .lenHi → (regRead r u).rdata = (regRead r u').rdata

/-- R35, "In general 0 <= t <= R(algL)", in every BUSY phase, LOAD among them: R is 80 for SHA-1 and 64 for SHA-224 and
SHA-256 (R7, R140, R160). In the LOAD of a digest's first block it rests on log entry 10: START writes t, within R. -/
def Obligations.RoundCounterBoundAlsoInLoad : Prop :=
  ∀ s u : State, Inv s → step s = .next u → isBusy u.phase = true →
    u.t ≤ (match u.algL with | .sha1 => 80 | .sha224 => 64 | .sha256 => 64)
end

