-- ==== Sys2Proof/Laws/State.lean ====
section
/-! SUPPORT. What each named update of the state does to each field: one lemma a field, so that no proof unfolds a record
update. -/

namespace Sys2Proof.Machine

@[simp] theorem respond_phase (r : Option Word) (s : State) : (respond r s).phase = s.phase := rfl
@[simp] theorem respond_cause (r : Option Word) (s : State) : (respond r s).cause = s.cause := rfl
@[simp] theorem respond_lenLo (r : Option Word) (s : State) : (respond r s).lenLo = s.lenLo := rfl
@[simp] theorem respond_lenHi (r : Option Word) (s : State) : (respond r s).lenHi = s.lenHi := rfl
@[simp] theorem respond_msg (r : Option Word) (s : State) : (respond r s).msg = s.msg := rfl
@[simp] theorem respond_algL (r : Option Word) (s : State) : (respond r s).algL = s.algL := rfl
@[simp] theorem respond_lenL (r : Option Word) (s : State) : (respond r s).lenL = s.lenL := rfl
@[simp] theorem respond_n (r : Option Word) (s : State) : (respond r s).n = s.n := rfl
@[simp] theorem respond_blk (r : Option Word) (s : State) : (respond r s).blk = s.blk := rfl
@[simp] theorem respond_t (r : Option Word) (s : State) : (respond r s).t = s.t := rfl
@[simp] theorem respond_H (r : Option Word) (s : State) : (respond r s).H = s.H := rfl
@[simp] theorem respond_work (r : Option Word) (s : State) : (respond r s).work = s.work := rfl
@[simp] theorem respond_W (r : Option Word) (s : State) : (respond r s).W = s.W := rfl
@[simp] theorem respond_hexbuf (r : Option Word) (s : State) : (respond r s).hexbuf = s.hexbuf := rfl
@[simp] theorem respond_msgCap (r : Option Word) (s : State) : (respond r s).msgCap = s.msgCap := rfl
@[simp] theorem respond_rdata (r : Option Word) (s : State) : (respond r s).rdata = r := rfl
@[simp] theorem respond_turns (r : Option Word) (s : State) : (respond r s).turns = s.turns := rfl
@[simp] theorem respond_program (r : Option Word) (s : State) : (respond r s).program = s.program := rfl
@[simp] theorem respond_vars (r : Option Word) (s : State) : (respond r s).vars = s.vars := rfl
@[simp] theorem respond_draws (r : Option Word) (s : State) : (respond r s).draws = s.draws := rfl
@[simp] theorem respond_resets (r : Option Word) (s : State) : (respond r s).resets = s.resets := rfl

@[simp] theorem respondDraw_phase (s : State) : (respondDraw s).phase = s.phase := rfl
@[simp] theorem respondDraw_cause (s : State) : (respondDraw s).cause = s.cause := rfl
@[simp] theorem respondDraw_lenLo (s : State) : (respondDraw s).lenLo = s.lenLo := rfl
@[simp] theorem respondDraw_lenHi (s : State) : (respondDraw s).lenHi = s.lenHi := rfl
@[simp] theorem respondDraw_msg (s : State) : (respondDraw s).msg = s.msg := rfl
@[simp] theorem respondDraw_algL (s : State) : (respondDraw s).algL = s.algL := rfl
@[simp] theorem respondDraw_lenL (s : State) : (respondDraw s).lenL = s.lenL := rfl
@[simp] theorem respondDraw_n (s : State) : (respondDraw s).n = s.n := rfl
@[simp] theorem respondDraw_blk (s : State) : (respondDraw s).blk = s.blk := rfl
@[simp] theorem respondDraw_t (s : State) : (respondDraw s).t = s.t := rfl
@[simp] theorem respondDraw_H (s : State) : (respondDraw s).H = s.H := rfl
@[simp] theorem respondDraw_work (s : State) : (respondDraw s).work = s.work := rfl
@[simp] theorem respondDraw_W (s : State) : (respondDraw s).W = s.W := rfl
@[simp] theorem respondDraw_hexbuf (s : State) : (respondDraw s).hexbuf = s.hexbuf := rfl
@[simp] theorem respondDraw_msgCap (s : State) : (respondDraw s).msgCap = s.msgCap := rfl
@[simp] theorem respondDraw_rdata (s : State) : (respondDraw s).rdata = some (Config.freeWord s.draws) := rfl
@[simp] theorem respondDraw_turns (s : State) : (respondDraw s).turns = s.turns := rfl
@[simp] theorem respondDraw_program (s : State) : (respondDraw s).program = s.program := rfl
@[simp] theorem respondDraw_vars (s : State) : (respondDraw s).vars = s.vars := rfl
@[simp] theorem respondDraw_draws (s : State) : (respondDraw s).draws = s.draws + 1 := rfl
@[simp] theorem respondDraw_resets (s : State) : (respondDraw s).resets = s.resets := rfl

@[simp] theorem setLenLo_phase (v : Word) (s : State) : (setLenLo v s).phase = s.phase := rfl
@[simp] theorem setLenLo_cause (v : Word) (s : State) : (setLenLo v s).cause = s.cause := rfl
@[simp] theorem setLenLo_lenLo (v : Word) (s : State) : (setLenLo v s).lenLo = v := rfl
@[simp] theorem setLenLo_lenHi (v : Word) (s : State) : (setLenLo v s).lenHi = s.lenHi := rfl
@[simp] theorem setLenLo_msg (v : Word) (s : State) : (setLenLo v s).msg = s.msg := rfl
@[simp] theorem setLenLo_algL (v : Word) (s : State) : (setLenLo v s).algL = s.algL := rfl
@[simp] theorem setLenLo_lenL (v : Word) (s : State) : (setLenLo v s).lenL = s.lenL := rfl
@[simp] theorem setLenLo_n (v : Word) (s : State) : (setLenLo v s).n = s.n := rfl
@[simp] theorem setLenLo_blk (v : Word) (s : State) : (setLenLo v s).blk = s.blk := rfl
@[simp] theorem setLenLo_t (v : Word) (s : State) : (setLenLo v s).t = s.t := rfl
@[simp] theorem setLenLo_H (v : Word) (s : State) : (setLenLo v s).H = s.H := rfl
@[simp] theorem setLenLo_work (v : Word) (s : State) : (setLenLo v s).work = s.work := rfl
@[simp] theorem setLenLo_W (v : Word) (s : State) : (setLenLo v s).W = s.W := rfl
@[simp] theorem setLenLo_hexbuf (v : Word) (s : State) : (setLenLo v s).hexbuf = s.hexbuf := rfl
@[simp] theorem setLenLo_msgCap (v : Word) (s : State) : (setLenLo v s).msgCap = s.msgCap := rfl
@[simp] theorem setLenLo_rdata (v : Word) (s : State) : (setLenLo v s).rdata = s.rdata := rfl
@[simp] theorem setLenLo_turns (v : Word) (s : State) : (setLenLo v s).turns = s.turns := rfl
@[simp] theorem setLenLo_program (v : Word) (s : State) : (setLenLo v s).program = s.program := rfl
@[simp] theorem setLenLo_vars (v : Word) (s : State) : (setLenLo v s).vars = s.vars := rfl
@[simp] theorem setLenLo_draws (v : Word) (s : State) : (setLenLo v s).draws = s.draws := rfl
@[simp] theorem setLenLo_resets (v : Word) (s : State) : (setLenLo v s).resets = s.resets := rfl

@[simp] theorem setLenHi_phase (v : Word) (s : State) : (setLenHi v s).phase = s.phase := rfl
@[simp] theorem setLenHi_cause (v : Word) (s : State) : (setLenHi v s).cause = s.cause := rfl
@[simp] theorem setLenHi_lenLo (v : Word) (s : State) : (setLenHi v s).lenLo = s.lenLo := rfl
@[simp] theorem setLenHi_lenHi (v : Word) (s : State) : (setLenHi v s).lenHi = v := rfl
@[simp] theorem setLenHi_msg (v : Word) (s : State) : (setLenHi v s).msg = s.msg := rfl
@[simp] theorem setLenHi_algL (v : Word) (s : State) : (setLenHi v s).algL = s.algL := rfl
@[simp] theorem setLenHi_lenL (v : Word) (s : State) : (setLenHi v s).lenL = s.lenL := rfl
@[simp] theorem setLenHi_n (v : Word) (s : State) : (setLenHi v s).n = s.n := rfl
@[simp] theorem setLenHi_blk (v : Word) (s : State) : (setLenHi v s).blk = s.blk := rfl
@[simp] theorem setLenHi_t (v : Word) (s : State) : (setLenHi v s).t = s.t := rfl
@[simp] theorem setLenHi_H (v : Word) (s : State) : (setLenHi v s).H = s.H := rfl
@[simp] theorem setLenHi_work (v : Word) (s : State) : (setLenHi v s).work = s.work := rfl
@[simp] theorem setLenHi_W (v : Word) (s : State) : (setLenHi v s).W = s.W := rfl
@[simp] theorem setLenHi_hexbuf (v : Word) (s : State) : (setLenHi v s).hexbuf = s.hexbuf := rfl
@[simp] theorem setLenHi_msgCap (v : Word) (s : State) : (setLenHi v s).msgCap = s.msgCap := rfl
@[simp] theorem setLenHi_rdata (v : Word) (s : State) : (setLenHi v s).rdata = s.rdata := rfl
@[simp] theorem setLenHi_turns (v : Word) (s : State) : (setLenHi v s).turns = s.turns := rfl
@[simp] theorem setLenHi_program (v : Word) (s : State) : (setLenHi v s).program = s.program := rfl
@[simp] theorem setLenHi_vars (v : Word) (s : State) : (setLenHi v s).vars = s.vars := rfl
@[simp] theorem setLenHi_draws (v : Word) (s : State) : (setLenHi v s).draws = s.draws := rfl
@[simp] theorem setLenHi_resets (v : Word) (s : State) : (setLenHi v s).resets = s.resets := rfl

@[simp] theorem setMsg_phase (m : Memory) (s : State) : (setMsg m s).phase = s.phase := rfl
@[simp] theorem setMsg_cause (m : Memory) (s : State) : (setMsg m s).cause = s.cause := rfl
@[simp] theorem setMsg_lenLo (m : Memory) (s : State) : (setMsg m s).lenLo = s.lenLo := rfl
@[simp] theorem setMsg_lenHi (m : Memory) (s : State) : (setMsg m s).lenHi = s.lenHi := rfl
@[simp] theorem setMsg_msg (m : Memory) (s : State) : (setMsg m s).msg = m := rfl
@[simp] theorem setMsg_algL (m : Memory) (s : State) : (setMsg m s).algL = s.algL := rfl
@[simp] theorem setMsg_lenL (m : Memory) (s : State) : (setMsg m s).lenL = s.lenL := rfl
@[simp] theorem setMsg_n (m : Memory) (s : State) : (setMsg m s).n = s.n := rfl
@[simp] theorem setMsg_blk (m : Memory) (s : State) : (setMsg m s).blk = s.blk := rfl
@[simp] theorem setMsg_t (m : Memory) (s : State) : (setMsg m s).t = s.t := rfl
@[simp] theorem setMsg_H (m : Memory) (s : State) : (setMsg m s).H = s.H := rfl
@[simp] theorem setMsg_work (m : Memory) (s : State) : (setMsg m s).work = s.work := rfl
@[simp] theorem setMsg_W (m : Memory) (s : State) : (setMsg m s).W = s.W := rfl
@[simp] theorem setMsg_hexbuf (m : Memory) (s : State) : (setMsg m s).hexbuf = s.hexbuf := rfl
@[simp] theorem setMsg_msgCap (m : Memory) (s : State) : (setMsg m s).msgCap = s.msgCap := rfl
@[simp] theorem setMsg_rdata (m : Memory) (s : State) : (setMsg m s).rdata = s.rdata := rfl
@[simp] theorem setMsg_turns (m : Memory) (s : State) : (setMsg m s).turns = s.turns := rfl
@[simp] theorem setMsg_program (m : Memory) (s : State) : (setMsg m s).program = s.program := rfl
@[simp] theorem setMsg_vars (m : Memory) (s : State) : (setMsg m s).vars = s.vars := rfl
@[simp] theorem setMsg_draws (m : Memory) (s : State) : (setMsg m s).draws = s.draws := rfl
@[simp] theorem setMsg_resets (m : Memory) (s : State) : (setMsg m s).resets = s.resets := rfl

@[simp] theorem leaveFault_phase (s : State) : (leaveFault s).phase = .idle := rfl
@[simp] theorem leaveFault_cause (s : State) : (leaveFault s).cause = .none := rfl
@[simp] theorem leaveFault_lenLo (s : State) : (leaveFault s).lenLo = s.lenLo := rfl
@[simp] theorem leaveFault_lenHi (s : State) : (leaveFault s).lenHi = s.lenHi := rfl
@[simp] theorem leaveFault_msg (s : State) : (leaveFault s).msg = s.msg := rfl
@[simp] theorem leaveFault_algL (s : State) : (leaveFault s).algL = s.algL := rfl
@[simp] theorem leaveFault_lenL (s : State) : (leaveFault s).lenL = s.lenL := rfl
@[simp] theorem leaveFault_n (s : State) : (leaveFault s).n = s.n := rfl
@[simp] theorem leaveFault_blk (s : State) : (leaveFault s).blk = s.blk := rfl
@[simp] theorem leaveFault_t (s : State) : (leaveFault s).t = s.t := rfl
@[simp] theorem leaveFault_H (s : State) : (leaveFault s).H = s.H := rfl
@[simp] theorem leaveFault_work (s : State) : (leaveFault s).work = s.work := rfl
@[simp] theorem leaveFault_W (s : State) : (leaveFault s).W = s.W := rfl
@[simp] theorem leaveFault_hexbuf (s : State) : (leaveFault s).hexbuf = s.hexbuf := rfl
@[simp] theorem leaveFault_msgCap (s : State) : (leaveFault s).msgCap = s.msgCap := rfl
@[simp] theorem leaveFault_rdata (s : State) : (leaveFault s).rdata = s.rdata := rfl
@[simp] theorem leaveFault_turns (s : State) : (leaveFault s).turns = s.turns := rfl
@[simp] theorem leaveFault_program (s : State) : (leaveFault s).program = s.program := rfl
@[simp] theorem leaveFault_vars (s : State) : (leaveFault s).vars = s.vars := rfl
@[simp] theorem leaveFault_draws (s : State) : (leaveFault s).draws = s.draws := rfl
@[simp] theorem leaveFault_resets (s : State) : (leaveFault s).resets = s.resets := rfl

@[simp] theorem beginDigest_phase (g : Alg) (L : Nat) (s : State) : (beginDigest g L s).phase = .load := rfl
@[simp] theorem beginDigest_cause (g : Alg) (L : Nat) (s : State) : (beginDigest g L s).cause = s.cause := rfl
@[simp] theorem beginDigest_lenLo (g : Alg) (L : Nat) (s : State) : (beginDigest g L s).lenLo = s.lenLo := rfl
@[simp] theorem beginDigest_lenHi (g : Alg) (L : Nat) (s : State) : (beginDigest g L s).lenHi = s.lenHi := rfl
@[simp] theorem beginDigest_msg (g : Alg) (L : Nat) (s : State) : (beginDigest g L s).msg = s.msg := rfl
@[simp] theorem beginDigest_algL (g : Alg) (L : Nat) (s : State) : (beginDigest g L s).algL = g := rfl
@[simp] theorem beginDigest_lenL (g : Alg) (L : Nat) (s : State) : (beginDigest g L s).lenL = L := rfl
@[simp] theorem beginDigest_n (g : Alg) (L : Nat) (s : State) : (beginDigest g L s).n = nblocks L := rfl
@[simp] theorem beginDigest_blk (g : Alg) (L : Nat) (s : State) : (beginDigest g L s).blk = 0 := rfl
@[simp] theorem beginDigest_t (g : Alg) (L : Nat) (s : State) : (beginDigest g L s).t = startRound g s.draws := rfl
@[simp] theorem beginDigest_H (g : Alg) (L : Nat) (s : State) : (beginDigest g L s).H = loadIv g s.H := rfl
@[simp] theorem beginDigest_work (g : Alg) (L : Nat) (s : State) : (beginDigest g L s).work = s.work := rfl
@[simp] theorem beginDigest_W (g : Alg) (L : Nat) (s : State) : (beginDigest g L s).W = s.W := rfl
@[simp] theorem beginDigest_hexbuf (g : Alg) (L : Nat) (s : State) : (beginDigest g L s).hexbuf = s.hexbuf := rfl
@[simp] theorem beginDigest_msgCap (g : Alg) (L : Nat) (s : State) : (beginDigest g L s).msgCap = s.msgCap := rfl
@[simp] theorem beginDigest_rdata (g : Alg) (L : Nat) (s : State) : (beginDigest g L s).rdata = s.rdata := rfl
@[simp] theorem beginDigest_turns (g : Alg) (L : Nat) (s : State) : (beginDigest g L s).turns = s.turns := rfl
@[simp] theorem beginDigest_program (g : Alg) (L : Nat) (s : State) : (beginDigest g L s).program = s.program := rfl
@[simp] theorem beginDigest_vars (g : Alg) (L : Nat) (s : State) : (beginDigest g L s).vars = s.vars := rfl
@[simp] theorem beginDigest_draws (g : Alg) (L : Nat) (s : State) : (beginDigest g L s).draws = s.draws + 1 := rfl
@[simp] theorem beginDigest_resets (g : Alg) (L : Nat) (s : State) : (beginDigest g L s).resets = s.resets := rfl

@[simp] theorem resetCore_phase (s : State) : (resetCore s).phase = .idle := rfl
@[simp] theorem resetCore_cause (s : State) : (resetCore s).cause = .none := rfl
@[simp] theorem resetCore_lenLo (s : State) : (resetCore s).lenLo = 0 := rfl
@[simp] theorem resetCore_lenHi (s : State) : (resetCore s).lenHi = 0 := rfl
@[simp] theorem resetCore_msg (s : State) : (resetCore s).msg = [] := rfl
@[simp] theorem resetCore_algL (s : State) : (resetCore s).algL = .sha1 := rfl
@[simp] theorem resetCore_lenL (s : State) : (resetCore s).lenL = 0 := rfl
@[simp] theorem resetCore_n (s : State) : (resetCore s).n = 1 := rfl
@[simp] theorem resetCore_blk (s : State) : (resetCore s).blk = 0 := rfl
@[simp] theorem resetCore_t (s : State) : (resetCore s).t = 0 := rfl
@[simp] theorem resetCore_H (s : State) : (resetCore s).H = Vector.replicate 8 0 := rfl
@[simp] theorem resetCore_work (s : State) : (resetCore s).work = Vector.replicate 8 0 := rfl
@[simp] theorem resetCore_W (s : State) : (resetCore s).W = Vector.replicate 80 0 := rfl
@[simp] theorem resetCore_hexbuf (s : State) : (resetCore s).hexbuf = Vector.replicate 64 .d0 := rfl
@[simp] theorem resetCore_msgCap (s : State) : (resetCore s).msgCap = s.msgCap := rfl
@[simp] theorem resetCore_rdata (s : State) : (resetCore s).rdata = s.rdata := rfl
@[simp] theorem resetCore_turns (s : State) : (resetCore s).turns = s.turns := rfl
@[simp] theorem resetCore_program (s : State) : (resetCore s).program = s.program := rfl
@[simp] theorem resetCore_vars (s : State) : (resetCore s).vars = s.vars := rfl
@[simp] theorem resetCore_draws (s : State) : (resetCore s).draws = s.draws := rfl
@[simp] theorem resetCore_resets (s : State) : (resetCore s).resets = s.resets + 1 := rfl

@[simp] theorem dropTurn_phase (s : State) : (dropTurn s).phase = s.phase := rfl
@[simp] theorem dropTurn_cause (s : State) : (dropTurn s).cause = s.cause := rfl
@[simp] theorem dropTurn_lenLo (s : State) : (dropTurn s).lenLo = s.lenLo := rfl
@[simp] theorem dropTurn_lenHi (s : State) : (dropTurn s).lenHi = s.lenHi := rfl
@[simp] theorem dropTurn_msg (s : State) : (dropTurn s).msg = s.msg := rfl
@[simp] theorem dropTurn_algL (s : State) : (dropTurn s).algL = s.algL := rfl
@[simp] theorem dropTurn_lenL (s : State) : (dropTurn s).lenL = s.lenL := rfl
@[simp] theorem dropTurn_n (s : State) : (dropTurn s).n = s.n := rfl
@[simp] theorem dropTurn_blk (s : State) : (dropTurn s).blk = s.blk := rfl
@[simp] theorem dropTurn_t (s : State) : (dropTurn s).t = s.t := rfl
@[simp] theorem dropTurn_H (s : State) : (dropTurn s).H = s.H := rfl
@[simp] theorem dropTurn_work (s : State) : (dropTurn s).work = s.work := rfl
@[simp] theorem dropTurn_W (s : State) : (dropTurn s).W = s.W := rfl
@[simp] theorem dropTurn_hexbuf (s : State) : (dropTurn s).hexbuf = s.hexbuf := rfl
@[simp] theorem dropTurn_msgCap (s : State) : (dropTurn s).msgCap = s.msgCap := rfl
@[simp] theorem dropTurn_rdata (s : State) : (dropTurn s).rdata = s.rdata := rfl
@[simp] theorem dropTurn_turns (s : State) : (dropTurn s).turns = s.turns.tail := rfl
@[simp] theorem dropTurn_program (s : State) : (dropTurn s).program = s.program := rfl
@[simp] theorem dropTurn_vars (s : State) : (dropTurn s).vars = s.vars := rfl
@[simp] theorem dropTurn_draws (s : State) : (dropTurn s).draws = s.draws := rfl
@[simp] theorem dropTurn_resets (s : State) : (dropTurn s).resets = s.resets := rfl

@[simp] theorem raiseFault_lenLo (c : Cause) (s : State) : (raiseFault c s).lenLo = s.lenLo := by
  unfold raiseFault; split <;> rfl
@[simp] theorem raiseFault_lenHi (c : Cause) (s : State) : (raiseFault c s).lenHi = s.lenHi := by
  unfold raiseFault; split <;> rfl
@[simp] theorem raiseFault_msg (c : Cause) (s : State) : (raiseFault c s).msg = s.msg := by
  unfold raiseFault; split <;> rfl
@[simp] theorem raiseFault_algL (c : Cause) (s : State) : (raiseFault c s).algL = s.algL := by
  unfold raiseFault; split <;> rfl
@[simp] theorem raiseFault_lenL (c : Cause) (s : State) : (raiseFault c s).lenL = s.lenL := by
  unfold raiseFault; split <;> rfl
@[simp] theorem raiseFault_n (c : Cause) (s : State) : (raiseFault c s).n = s.n := by
  unfold raiseFault; split <;> rfl
@[simp] theorem raiseFault_blk (c : Cause) (s : State) : (raiseFault c s).blk = s.blk := by
  unfold raiseFault; split <;> rfl
@[simp] theorem raiseFault_t (c : Cause) (s : State) : (raiseFault c s).t = s.t := by
  unfold raiseFault; split <;> rfl
@[simp] theorem raiseFault_H (c : Cause) (s : State) : (raiseFault c s).H = s.H := by
  unfold raiseFault; split <;> rfl
@[simp] theorem raiseFault_work (c : Cause) (s : State) : (raiseFault c s).work = s.work := by
  unfold raiseFault; split <;> rfl
@[simp] theorem raiseFault_W (c : Cause) (s : State) : (raiseFault c s).W = s.W := by
  unfold raiseFault; split <;> rfl
@[simp] theorem raiseFault_hexbuf (c : Cause) (s : State) : (raiseFault c s).hexbuf = s.hexbuf := by
  unfold raiseFault; split <;> rfl
@[simp] theorem raiseFault_msgCap (c : Cause) (s : State) : (raiseFault c s).msgCap = s.msgCap := by
  unfold raiseFault; split <;> rfl
@[simp] theorem raiseFault_rdata (c : Cause) (s : State) : (raiseFault c s).rdata = s.rdata := by
  unfold raiseFault; split <;> rfl
@[simp] theorem raiseFault_turns (c : Cause) (s : State) : (raiseFault c s).turns = s.turns := by
  unfold raiseFault; split <;> rfl
@[simp] theorem raiseFault_program (c : Cause) (s : State) : (raiseFault c s).program = s.program := by
  unfold raiseFault; split <;> rfl
@[simp] theorem raiseFault_vars (c : Cause) (s : State) : (raiseFault c s).vars = s.vars := by
  unfold raiseFault; split <;> rfl
@[simp] theorem raiseFault_draws (c : Cause) (s : State) : (raiseFault c s).draws = s.draws := by
  unfold raiseFault; split <;> rfl
@[simp] theorem raiseFault_resets (c : Cause) (s : State) : (raiseFault c s).resets = s.resets := by
  unfold raiseFault; split <;> rfl

/-- Fault entry leaves the core in FAULT (R241, R242). -/
@[simp] theorem raiseFault_phase (c : Cause) (s : State) : (raiseFault c s).phase = .fault := by
  unfold raiseFault; split <;> simp_all

/-- In FAULT the first cause stays (R242). -/
theorem raiseFault_of_fault (c : Cause) {s : State} (h : s.phase = .fault) : raiseFault c s = s := by
  simp [raiseFault, h]

/-- Outside FAULT the cause is recorded and nothing else changes (R241). -/
theorem raiseFault_of_not_fault (c : Cause) {s : State} (h : s.phase ≠ .fault) :
    raiseFault c s = { s with cause := c, phase := .fault } := by
  simp [raiseFault, h]

@[simp] theorem badAccess_wr (s : State) : badAccess .wr s = raiseFault .badAccess s := rfl

@[simp] theorem badAccess_rd (s : State) : badAccess .rd s = respondDraw (raiseFault .badAccess s) := rfl

end Sys2Proof.Machine
end

