-- ==== Sys2Proof/Laws/Commands.lean ====
section
/-! SUPPORT. What a command can do (45_host_commands.md R200-R203). -/

namespace Sys2Proof.Machine

/-- START leaves the round counter within R(alg) (10_state.md R35). -/
theorem startRound_le (g : Alg) (i : Nat) : startRound g i ≤ roundCount g :=
  Nat.le_of_lt_succ (Nat.mod_lt _ (Nat.succ_pos _))

/-- START(alg) is ignored, refused with one of two causes, or accepted (R202). -/
theorem start_cases (g : Alg) (s : State) :
    (s.phase = .fault ∧ start g s = s) ∨
    (isBusy s.phase = true ∧ start g s = raiseFault .busyViolation s) ∨
    (s.phase ≠ .fault ∧ isBusy s.phase = false ∧ capacity s < messageLength s ∧
      start g s = raiseFault .lengthRange s) ∨
    ((s.phase = .idle ∨ s.phase = .done) ∧ messageLength s ≤ capacity s ∧
      start g s = beginDigest g (messageLength s) s) := by
  unfold start
  by_cases hf : s.phase = .fault
  · exact .inl ⟨hf, by simp [hf]⟩
  by_cases hb : isBusy s.phase = true
  · exact .inr (.inl ⟨hb, by simp [hf, hb]⟩)
  simp only [Bool.not_eq_true] at hb
  by_cases hl : capacity s < messageLength s
  · exact .inr (.inr (.inl ⟨hf, hb, hl, by simp [hf, hb, hl]⟩))
  · refine .inr (.inr (.inr ⟨?_, by omega, by simp [hf, hb, hl]⟩))
    revert hf hb
    cases s.phase <;> simp [isBusy]

/-- The algorithm a command starts. -/
def startedBy : Instr → Option Alg
  | .nop => none
  | .startSha1 => some .sha1
  | .startSha224 => some .sha224
  | .startSha256 => some .sha256
  | .clear => none

/-- Everything a command can do: nothing, START's four outcomes, or CLEAR. -/
theorem exec_cases {i : Instr} {s u : State} (h : exec i s = .next u) :
    (i = .nop ∧ u = s) ∨ (i = .clear ∧ u = leaveFault s) ∨ (∃ g, startedBy i = some g ∧ u = start g s) := by
  cases i <;> simp only [exec, execNop, execStartSha1, execStartSha224, execStartSha256, execClear,
    Host.Outcome.next.injEq] at h <;> subst h <;> simp [startedBy]

end Sys2Proof.Machine
end

