-- ==== Sys2Proof/Laws/Decode.lean ====
section
/-! SUPPORT. The decoder read as arithmetic on the word's value (30_encoding.md R72, R73). -/

namespace Sys2Proof

/-- decode by the numeric value of the fields: bits 3:0 are v mod 16, bits 5:4 are v / 16 mod 4, bits 31:6 are v / 64. -/
theorem decode_eq_toNat (v : Word) : decode v =
    if v.toNat / 64 ≠ 0 then .illegal
    else if v.toNat % 16 = 0 ∧ v.toNat / 16 % 4 = 0 then .command .nop
    else if v.toNat % 16 = 1 ∧ v.toNat / 16 % 4 = 0 then .command .startSha1
    else if v.toNat % 16 = 1 ∧ v.toNat / 16 % 4 = 1 then .command .startSha224
    else if v.toNat % 16 = 1 ∧ v.toNat / 16 % 4 = 2 then .command .startSha256
    else if v.toNat % 16 = 1 ∧ v.toNat / 16 % 4 = 3 then .startReservedAlg
    else if v.toNat % 16 = 2 ∧ v.toNat / 16 % 4 = 0 then .command .clear
    else .illegal := by
  have hlt := v.isLt
  unfold decode
  have hz : zeroField v = 0 ↔ v.toNat / 64 = 0 := by
    rw [← BitVec.toNat_inj]
    simp [zeroField, Nat.shiftRight_eq_div_pow]
    omega
  have ho : ∀ k : BitVec 4, opField v = k ↔ v.toNat % 16 = k.toNat := by
    intro k
    rw [← BitVec.toNat_inj]
    simp [opField]
  have ha : ∀ k : BitVec 2, algField v = k ↔ v.toNat / 16 % 4 = k.toNat := by
    intro k
    rw [← BitVec.toNat_inj]
    simp [algField, Nat.shiftRight_eq_div_pow]
  simp only [ne_eq, hz, ho, ha]
  rfl

end Sys2Proof
end

