-- ==== Sys2Proof/Laws/Words.lean ====
section
/-! SUPPORT. What each entry of a register file is after the operations that write it. -/

namespace Sys2Proof.Machine

/-- wordAt inside the file. -/
theorem wordAt_of_lt {size : Nat} (v : Vector Word size) {i : Nat} (h : i < size) : wordAt v i = v[i] := by
  simp [wordAt, h]

/-- An entry of a file given by a function of the index. -/
theorem wordAt_ofFn {size : Nat} (f : Fin size → Word) {i : Nat} (h : i < size) :
    wordAt (Vector.ofFn f) i = f ⟨i, h⟩ := by
  simp [wordAt, h]

/-- Two files are equal when their entries are. -/
theorem vector_ext_wordAt {size : Nat} {v w : Vector Word size} (h : ∀ i, i < size → wordAt v i = wordAt w i) : v = w := by
  apply Vector.ext
  intro i hi
  simpa [wordAt, hi] using h i hi

theorem wordAt_loadIv (g : Alg) (H : Vector Word 8) {j : Nat} (h : j < 8) :
    wordAt (loadIv g H) j = if j < stateWords g then ivWord g j else wordAt H j := by
  simp [loadIv, wordAt, h]

theorem wordAt_addBack (size : Nat) (H work : Vector Word 8) {j : Nat} (h : j < 8) :
    wordAt (addBack size H work) j = if j < size then wordAt H j + wordAt work j else wordAt H j := by
  simp [addBack, wordAt, h]

theorem wordAt_copyState (size : Nat) (H work : Vector Word 8) {j : Nat} (h : j < 8) :
    wordAt (copyState size H work) j = if j < size then wordAt H j else wordAt work j := by
  simp [copyState, wordAt, h]

theorem wordAt_loadBlock (B : Vector Word 16) (W : Vector Word 80) {i : Nat} (h : i < 80) :
    wordAt (loadBlock B W) i = if i < 16 then wordAt B i else wordAt W i := by
  simp [loadBlock, wordAt, h]

theorem wordAt_block (byte : Nat → Byte) (L n i : Nat) {j : Nat} (h : j < 16) :
    wordAt (block byte L n i) j = blockWord byte L n i j := by
  simp [block, wordAt, h]

theorem charAt_formatInto (H : Vector Word 8) (k : Nat) (buf : Vector HexChar 64) {m : Nat} (h : m < 64) :
    charAt (formatInto H k buf) m =
      if m < 8 * k then nibbleChar (nibbleOf (wordAt H (m / 8)) (m % 8)) else charAt buf m := by
  simp [formatInto, charAt, h]

theorem stateWords_le (g : Alg) : stateWords g ≤ 8 := by cases g <;> decide

theorem outWords_le (g : Alg) : outWords g ≤ 8 := by cases g <;> decide

theorem outWords_le_stateWords (g : Alg) : outWords g ≤ stateWords g := by cases g <;> decide

theorem roundCount_le (g : Alg) : roundCount g ≤ 80 := by cases g <;> decide

/-- The first count writes of an expansion leave every entry outside 16 .. 15 + count alone. -/
theorem wordAt_expandBy_of_not (entry : Vector Word 80 → Nat → Word) (count : Nat) (W : Vector Word 80) {i : Nat}
    (h : i < 16 ∨ 16 + count ≤ i) : wordAt (expandBy entry count W) i = wordAt W i := by
  induction count with
  | zero => rfl
  | succ count ih =>
    have hne : 16 + count ≠ i := by omega
    rw [← ih (by omega)]
    by_cases hi : i < 80
    · simp [expandBy, wordAt, hi, hne]
    · simp [wordAt, hi]

/-- Entry 16 + c of an expansion is the recurrence on the entries before it, whatever is written after it. -/
theorem wordAt_expandBy (entry : Vector Word 80 → Nat → Word) (count : Nat) (W : Vector Word 80) {c : Nat}
    (hc : c < count) (h80 : 16 + c < 80) :
    wordAt (expandBy entry count W) (16 + c) = entry (expandBy entry c W) (16 + c) := by
  induction count with
  | zero => omega
  | succ count ih =>
    by_cases hlast : c = count
    · subst hlast; simp [expandBy, wordAt, h80]
    · have hne : 16 + count ≠ 16 + c := by omega
      rw [← ih (by omega)]
      simp [expandBy, wordAt, h80, Ne.symm hlast]

/-- A later stage of an expansion agrees with an earlier one on every entry the earlier one has written. -/
theorem wordAt_expandBy_stage (entry : Vector Word 80 → Nat → Word) {c count : Nat} (W : Vector Word 80) {i : Nat}
    (hc : c ≤ count) (hi : i < 16 + c) (h80 : i < 80) :
    wordAt (expandBy entry count W) i = wordAt (expandBy entry c W) i := by
  by_cases h16 : i < 16
  · rw [wordAt_expandBy_of_not entry count W (.inl h16), wordAt_expandBy_of_not entry c W (.inl h16)]
  · obtain ⟨d, rfl⟩ : ∃ d, i = 16 + d := ⟨i - 16, by omega⟩
    rw [wordAt_expandBy entry count W (by omega) h80, wordAt_expandBy entry c W (by omega) h80]

end Sys2Proof.Machine
end

