-- ==== Sys2Proof/Laws/Formatter.lean ====
section
/-! SUPPORT. The bytes of a packed word (20_memory.md R55, R58), and the formatted digest as a list and as the first cells
of the buffer (44_digest_formatter.md R190-R193). -/

namespace Sys2Proof.Machine

theorem getLsbD_packBytes (a b c d : Byte) (i : Nat) :
    (packBytes a b c d).getLsbD i =
      if i < 8 then d.getLsbD i else if i < 16 then c.getLsbD (i - 8) else if i < 24 then b.getLsbD (i - 16)
      else a.getLsbD (i - 24) := by
  have h : (packBytes a b c d).getLsbD i = _ := BitVec.getLsbD_append (x := a ++ b ++ c) (y := d) (i := i)
  rw [h, BitVec.getLsbD_append (x := a ++ b) (y := c), BitVec.getLsbD_append (x := a) (y := b)]
  have e : (i - 8 < 8) = (i < 16 ∨ i < 8) := by simp; omega
  split_ifs <;> first | rfl | omega

/-- Byte i of a packed word. -/
theorem byteOfWord_packBytes (a b c d : Byte) {i : Nat} (hi : i < 4) :
    byteOfWord (packBytes a b c d) i = if i = 0 then a else if i = 1 then b else if i = 2 then c else d := by
  apply BitVec.eq_of_getLsbD_eq
  intro k hk
  have h : i = 0 ∨ i = 1 ∨ i = 2 ∨ i = 3 := by omega
  rcases h with rfl | rfl | rfl | rfl <;> simp only [byteOfWord] <;>
    simp [getLsbD_packBytes, hk, show ¬ 24 + k < 8 by omega, show ¬ 24 + k < 16 by omega,
      show ¬ 16 + k < 8 by omega, show ¬ 16 + k < 16 by omega, show 16 + k < 24 by omega,
      show ¬ 8 + k < 8 by omega, show 8 + k < 16 by omega]

/-- Byte i of a word by its value, byte 0 the most significant. -/
theorem toNat_byteOfWord (w : Word) (i : Nat) (hi : i < 4) : (byteOfWord w i).toNat = w.toNat / 256 ^ (3 - i) % 256 := by
  have h : i = 0 ∨ i = 1 ∨ i = 2 ∨ i = 3 := by omega
  rcases h with rfl | rfl | rfl | rfl <;> simp [byteOfWord, Nat.shiftRight_eq_div_pow]

/-- Nibble i of a word by its value, nibble 0 the most significant. -/
theorem toNat_nibbleOf (w : Word) (i : Nat) (hi : i < 8) : (nibbleOf w i).toNat = w.toNat / 16 ^ (7 - i) % 16 := by
  have h : i = 0 ∨ i = 1 ∨ i = 2 ∨ i = 3 ∨ i = 4 ∨ i = 5 ∨ i = 6 ∨ i = 7 := by omega
  rcases h with rfl | rfl | rfl | rfl | rfl | rfl | rfl | rfl <;> simp [nibbleOf, Nat.shiftRight_eq_div_pow]

/-- The byte of a nibble's character (R192, R196). -/
theorem toNat_ascii_nibbleChar (v : BitVec 4) :
    (ascii (nibbleChar v)).toNat = if v.toNat < 10 then 0x30 + v.toNat else 0x57 + v.toNat := by
  revert v
  decide

theorem format_length (H : Vector Word 8) (k : Nat) : (format H k).length = 8 * k := by
  simp [format, hex8]
  omega

/-- Character m of the formatted digest is nibble m mod 8 of word m / 8. -/
theorem format_getElem? (H : Vector Word 8) {m k : Nat} (hm : m < 8 * k) :
    (format H k)[m]? = some (nibbleChar (nibbleOf (wordAt H (m / 8)) (m % 8))) := by
  induction k with
  | zero => omega
  | succ k ih =>
    rw [show format H (k + 1) = format H k ++ hex8 (wordAt H k) by simp [format, List.range_succ]]
    by_cases hlt : m < 8 * k
    · rw [List.getElem?_append_left (by rw [format_length]; exact hlt)]
      exact ih hlt
    · rw [List.getElem?_append_right (by rw [format_length]; omega), format_length,
        show m / 8 = k by omega, show m - 8 * k = m % 8 by omega]
      simp [hex8, Nat.mod_lt]

/-- A buffer whose first 8k cells are the formatted digest, cell by cell. -/
theorem charAt_of_take_eq {buf : Vector HexChar 64} {H : Vector Word 8} {k m : Nat} (hk : k ≤ 8)
    (h : buf.toList.take (8 * k) = format H k) (hm : m < 8 * k) :
    charAt buf m = nibbleChar (nibbleOf (wordAt H (m / 8)) (m % 8)) := by
  have h1 : (buf.toList.take (8 * k))[m]? = some (charAt buf m) := by
    rw [List.getElem?_take_of_lt hm]
    simp [charAt, show m < 64 by omega]
  rw [h, format_getElem? H hm] at h1
  simpa using h1.symm

/-- FORMAT's write is the formatted digest. -/
theorem take_formatInto (H : Vector Word 8) {k : Nat} (hk : k ≤ 8) (buf : Vector HexChar 64) :
    (formatInto H k buf).toList.take (8 * k) = format H k := by
  apply List.ext_getElem?
  intro m
  by_cases hm : m < 8 * k
  · rw [List.getElem?_take_of_lt hm, format_getElem? H hm]
    have h := charAt_formatInto H k buf (m := m) (by omega)
    rw [if_pos hm] at h
    rw [← h]
    simp [charAt, show m < 64 by omega]
  · rw [List.getElem?_eq_none, List.getElem?_eq_none]
    · rw [format_length]; omega
    · simp; omega

end Sys2Proof.Machine
end

