-- ==== Sys2Proof/Laws/Sequencer.lean ====
section
/-! SUPPORT. What the sequencer's move can do, said once (45_host_commands.md R220, R221). -/

namespace Sys2Proof.Machine

/-- What LOAD leaves (R106). -/
def afterLoad (s : State) : State :=
  { s with
    W := loadBlock (block (msgByte s) s.lenL s.n s.blk) s.W
    work := copyState (stateWords s.algL) s.H s.work
    t := 0
    phase := .expand }

/-- The schedule of an algorithm (R125). -/
def expandFor : Alg → Vector Word 80 → Vector Word 80
  | .sha1 => expand1
  | .sha224 => expand2
  | .sha256 => expand2

/-- The round of an algorithm (R145, R168). -/
def roundFor : Alg → Nat → Word → Vector Word 8 → Vector Word 8
  | .sha1 => round1
  | .sha224 => round2
  | .sha256 => round2

/-- What EXPAND leaves. -/
def afterExpand (s : State) : State := { s with W := expandFor s.algL s.W, phase := .round }

/-- What a ROUND leaves. -/
def afterRound (s : State) : State :=
  { s with
    work := roundFor s.algL s.t (wordAt s.W s.t) s.work
    phase := if s.t + 1 = roundCount s.algL then .addback else .round
    t := s.t + 1 }

/-- What an ADDBACK leaves. -/
def afterAddback (s : State) : State :=
  { s with
    H := addBack (stateWords s.algL) s.H s.work
    phase := if s.blk + 1 = s.n then .format else .load
    blk := s.blk + 1 }

/-- What FORMAT leaves. -/
def afterFormat (s : State) : State :=
  { s with
    hexbuf := formatInto s.H (outWords s.algL) s.hexbuf
    phase := .done }

theorem seqLoad_eq (s : State) :
    seqLoad s = if s.blk < s.n ∧ s.lenL ≤ capacity s then .next (afterLoad s) else stuckAt .load := rfl

theorem seqExpand_eq (s : State) : seqExpand s = .next (afterExpand s) := by
  cases h : s.algL <;> simp [seqExpand, afterExpand, expandFor, h]

/-- The operation whose requires line a ROUND checks. -/
def roundOp : Alg → SeqOp
  | .sha1 => .round1
  | .sha224 => .round2
  | .sha256 => .round2

/-- The operation whose requires line an ADDBACK checks. -/
def addbackOp : Alg → SeqOp
  | .sha1 => .addback1
  | .sha224 => .addback2
  | .sha256 => .addback2

theorem seqRound_eq (s : State) :
    seqRound s = if s.t < roundCount s.algL then .next (afterRound s) else stuckAt (roundOp s.algL) := by
  cases h : s.algL <;> simp [seqRound, seqRound1, seqRound2, afterRound, roundFor, roundCount, roundOp, h]

theorem seqAddback_eq (s : State) :
    seqAddback s =
      if s.t = roundCount s.algL ∧ s.blk < s.n then .next (afterAddback s) else stuckAt (addbackOp s.algL) := by
  cases h : s.algL <;>
    simp [seqAddback, seqAddback1, seqAddback2, afterAddback, stateWords, roundCount, addbackOp, h]

theorem seqFormat_eq (s : State) :
    seqFormat s = if s.blk = s.n then .next (afterFormat s) else stuckAt .format := rfl

/-- Everything the sequencer's move can do: no step outside the BUSY phases, else the one operation of the phase, with its
requires line. -/
theorem sequencerMove_cases {s u : State} (h : sequencerMove s = .next u) :
    (isBusy s.phase = false ∧ u = s) ∨
    (s.phase = .load ∧ s.blk < s.n ∧ s.lenL ≤ capacity s ∧ u = afterLoad s) ∨
    (s.phase = .expand ∧ u = afterExpand s) ∨
    (s.phase = .round ∧ s.t < roundCount s.algL ∧ u = afterRound s) ∨
    (s.phase = .addback ∧ s.t = roundCount s.algL ∧ s.blk < s.n ∧ u = afterAddback s) ∨
    (s.phase = .format ∧ s.blk = s.n ∧ u = afterFormat s) := by
  unfold sequencerMove at h
  split at h <;> rename_i hp
  · exact .inl ⟨by rw [hp]; rfl, by simpa using h.symm⟩
  · rw [seqLoad_eq] at h
    split at h
    · rename_i hc; exact .inr (.inl ⟨hp, hc.1, hc.2, by simpa using h.symm⟩)
    · simp [stuckAt] at h
  · rw [seqExpand_eq] at h
    exact .inr (.inr (.inl ⟨hp, by simpa using h.symm⟩))
  · rw [seqRound_eq] at h
    split at h
    · exact .inr (.inr (.inr (.inl ⟨hp, ‹_›, by simpa using h.symm⟩)))
    · simp [stuckAt] at h
  · rw [seqAddback_eq] at h
    split at h
    · rename_i hc; exact .inr (.inr (.inr (.inr (.inl ⟨hp, hc.1, hc.2, by simpa using h.symm⟩))))
    · simp [stuckAt] at h
  · rw [seqFormat_eq] at h
    split at h
    · exact .inr (.inr (.inr (.inr (.inr ⟨hp, ‹_›, by simpa using h.symm⟩))))
    · simp [stuckAt] at h
  · exact .inl ⟨by rw [hp]; rfl, by simpa using h.symm⟩
  · exact .inl ⟨by rw [hp]; rfl, by simpa using h.symm⟩

end Sys2Proof.Machine
end

