-- ==== Sys2Proof/Laws/Digest.lean ====
section
/-! SUPPORT. The compression with the two cores as one (42_sha1_compression.md R147, 43_sha2_compression.md R170), and what
it does not depend on: words at and above S(alg), and schedule entries left from earlier blocks. -/

namespace Sys2Proof.Machine

/-- Two registers files agree on their first size words. -/
def AgreeBelow (size : Nat) (v w : Vector Word 8) : Prop := ∀ j < size, wordAt v j = wordAt w j

/-- The first count rounds of an algorithm over a schedule. -/
def roundsFor (g : Alg) (W : Vector Word 80) : Nat → Vector Word 8 → Vector Word 8
  | 0, v => v
  | t + 1, v => roundFor g t (wordAt W t) (roundsFor g W t v)

theorem rounds1_eq_roundsFor (W : Vector Word 80) (t : Nat) (v : Vector Word 8) :
    rounds1 W t v = roundsFor .sha1 W t v := by
  induction t with
  | zero => rfl
  | succ t ih => simp [rounds1, roundsFor, ih, roundFor]

theorem rounds2_eq_roundsFor {g : Alg} (hg : g ≠ .sha1) (W : Vector Word 80) (t : Nat) (v : Vector Word 8) :
    rounds2 W t v = roundsFor g W t v := by
  induction t with
  | zero => rfl
  | succ t ih => cases g <;> simp [rounds2, roundsFor, ih, roundFor] at hg ⊢

/-- Compress of any algorithm: expand the block, run its rounds, add back. -/
theorem compress_eq (g : Alg) (H : Vector Word 8) (B : Vector Word 16) :
    compress g H B =
      addBack (stateWords g) H (roundsFor g (expandFor g (blockFile B)) (roundCount g) H) := by
  cases g <;> simp only [compress, compress1, compress2, rounds1_eq_roundsFor, expandFor, stateWords, roundCount]
  · rw [rounds2_eq_roundsFor (g := .sha224) (by decide)]
  · rw [rounds2_eq_roundsFor (g := .sha256) (by decide)]

/-- A round reads and writes the first S(alg) words only. -/
theorem agreeBelow_roundFor (g : Alg) (t : Nat) (w : Word) {u v : Vector Word 8} (h : AgreeBelow (stateWords g) u v) :
    AgreeBelow (stateWords g) (roundFor g t w u) (roundFor g t w v) := by
  have all : stateWords g = 8 → AgreeBelow (stateWords g) (roundFor g t w u) (roundFor g t w v) := by
    intro h8
    rw [h8] at h
    rw [vector_ext_wordAt h]
    exact fun _ _ => rfl
  cases g with
  | sha1 =>
    have h0 := h 0 (by decide)
    have h1 := h 1 (by decide)
    have h2 := h 2 (by decide)
    have h3 := h 3 (by decide)
    have h4 := h 4 (by decide)
    simp only [wordAt, show (0 : Nat) < 8 by decide, show (1 : Nat) < 8 by decide, show (2 : Nat) < 8 by decide,
      show (3 : Nat) < 8 by decide, show (4 : Nat) < 8 by decide, dite_true] at h0 h1 h2 h3 h4
    intro j hj
    simp only [stateWords] at hj
    simp only [roundFor, round1, h0, h1, h2, h3, h4]
    rcases j with _ | _ | _ | _ | _ | j <;> first | rfl | omega
  | sha224 => exact all rfl
  | sha256 => exact all rfl

theorem agreeBelow_roundsFor (g : Alg) (W : Vector Word 80) (t : Nat) {u v : Vector Word 8}
    (h : AgreeBelow (stateWords g) u v) : AgreeBelow (stateWords g) (roundsFor g W t u) (roundsFor g W t v) := by
  induction t with
  | zero => exact h
  | succ t ih => exact agreeBelow_roundFor g _ _ ih

theorem agreeBelow_addBack {size : Nat} (hs : size ≤ 8) {H H' u v : Vector Word 8} (h : AgreeBelow size H H')
    (h' : AgreeBelow size u v) : AgreeBelow size (addBack size H u) (addBack size H' v) := by
  intro j hj
  rw [wordAt_addBack _ _ _ (by omega), wordAt_addBack _ _ _ (by omega), if_pos hj, if_pos hj, h j hj, h' j hj]

theorem agreeBelow_copyState {size : Nat} (hs : size ≤ 8) (H work : Vector Word 8) :
    AgreeBelow size (copyState size H work) H := by
  intro j hj
  rw [wordAt_copyState _ _ _ (by omega), if_pos hj]

/-- The fold takes one more block at its end. -/
theorem foldCompress_append (g : Alg) (H : Vector Word 8) (Bs : List (Vector Word 16)) (C : Vector Word 16) :
    foldCompress g H (Bs ++ [C]) = compress g (foldCompress g H Bs) C := by
  induction Bs generalizing H with
  | nil => rfl
  | cons B Bs ih => exact ih _

/-- The formatted digest depends on the words it formats only. -/
theorem format_of_agreeBelow {k size : Nat} (hk : k ≤ size) {H H' : Vector Word 8} (h : AgreeBelow size H H') :
    format H k = format H' k := by
  unfold format
  apply List.flatMap_congr
  intro j hj
  rw [h j (by simp at hj; omega)]

end Sys2Proof.Machine
end

