-- ==== Sys2Proof/Laws/Memory.lean ====
section
/-! SUPPORT. The laws of the association lists behind the message buffer and the host's variables: read after write, writes
to different keys, and the canonical form. -/

namespace Sys2Proof.Machine

variable {β : Type}

/-- Read after write, at the key written and at any other. -/
theorem lookup_insert (m : List (Nat × β)) (a c : Nat) (b : β) :
    lookup (insert m a b) c = if c = a then some b else lookup m c := by
  induction m with
  | nil =>
    by_cases h : c = a
    · simp [insert, lookup, h]
    · simp [insert, lookup, h, Ne.symm h]
  | cons x m ih =>
    obtain ⟨k, v⟩ := x
    unfold insert
    split
    · by_cases h : c = a
      · simp [lookup, h]
      · simp [lookup, h, Ne.symm h]
    · split
      · subst a
        by_cases h : c = k
        · simp [lookup, h]
        · simp [lookup, h, Ne.symm h]
      · simp only [lookup, ih]
        by_cases h : k = c <;> by_cases h2 : c = a <;> simp_all

theorem risingAbove_mono {m : List (Nat × β)} {i j : Nat} (h : i ≤ j) (hm : risingAbove j m = true) :
    risingAbove i m = true := by
  cases m with
  | nil => rfl
  | cons x m => simp only [risingAbove, Bool.and_eq_true, decide_eq_true_eq] at hm ⊢; exact ⟨by omega, hm.2⟩

theorem risingAbove_insert {m : List (Nat × β)} {i a : Nat} {b : β} (hm : risingAbove i m = true) (h : i ≤ a) :
    risingAbove i (insert m a b) = true := by
  induction m generalizing i with
  | nil => simp [insert, risingAbove, h]
  | cons x m ih =>
    obtain ⟨k, v⟩ := x
    simp only [risingAbove, Bool.and_eq_true, decide_eq_true_eq] at hm
    unfold insert
    split
    · simp only [risingAbove, Bool.and_eq_true, decide_eq_true_eq]; exact ⟨h, by omega, hm.2⟩
    · split
      · subst a; simp only [risingAbove, Bool.and_eq_true, decide_eq_true_eq]; exact hm
      · simp only [risingAbove, Bool.and_eq_true, decide_eq_true_eq]; exact ⟨hm.1, ih hm.2 (by omega)⟩

/-- A write keeps the canonical form. -/
theorem rising_insert {m : List (Nat × β)} (hm : rising m = true) (a : Nat) (b : β) : rising (insert m a b) = true :=
  risingAbove_insert hm (Nat.zero_le a)

theorem lookup_none_of_lt {m : List (Nat × β)} {i a : Nat} (hm : risingAbove i m = true) (h : a < i) :
    lookup m a = none := by
  induction m generalizing i with
  | nil => rfl
  | cons x m ih =>
    obtain ⟨k, v⟩ := x
    simp only [risingAbove, Bool.and_eq_true, decide_eq_true_eq] at hm
    have hk : k ≠ a := by omega
    simp [lookup, hk, ih hm.2 (by omega)]

theorem eq_of_lookup_eq_above {m m' : List (Nat × β)} {i : Nat} (hm : risingAbove i m = true)
    (hm' : risingAbove i m' = true) (h : ∀ a, lookup m a = lookup m' a) : m = m' := by
  induction m generalizing i m' with
  | nil =>
    cases m' with
    | nil => rfl
    | cons x m' => have := h x.1; simp [lookup] at this
  | cons x m ih =>
    obtain ⟨k, v⟩ := x
    cases m' with
    | nil => have := h k; simp [lookup] at this
    | cons y m' =>
      obtain ⟨k', v'⟩ := y
      simp only [risingAbove, Bool.and_eq_true, decide_eq_true_eq] at hm hm'
      have hk : k = k' := by
        rcases Nat.lt_trichotomy k k' with hlt | heq | hgt
        · have := h k
          simp [lookup, Ne.symm (Nat.ne_of_lt hlt), lookup_none_of_lt hm'.2 (show k < k' + 1 by omega)] at this
        · exact heq
        · have := h k'
          simp [lookup, Ne.symm (Nat.ne_of_lt hgt), lookup_none_of_lt hm.2 (show k' < k + 1 by omega)] at this
      subst hk
      have hv : v = v' := by have := h k; simpa [lookup] using this
      subst hv
      have htail : m = m' := by
        refine ih hm.2 hm'.2 fun a => ?_
        by_cases hka : k = a
        · subst hka; rw [lookup_none_of_lt hm.2 (Nat.lt_succ_self k), lookup_none_of_lt hm'.2 (Nat.lt_succ_self k)]
        · have := h a; simpa [lookup, hka] using this
      rw [htail]

/-- Canonical lists with equal contents are equal. -/
theorem eq_of_lookup_eq {m m' : List (Nat × β)} (hm : rising m = true) (hm' : rising m' = true)
    (h : ∀ a, lookup m a = lookup m' a) : m = m' :=
  eq_of_lookup_eq_above hm hm' h

/-- Reading the message buffer is looking the address up. -/
theorem Memory.read_eq (m : Memory) (a : Nat) : Memory.read m a = lookup m a := by
  simp [Memory.read, Memory.unlisted]

/-- Read after a byte write. -/
theorem Memory.read_write (m : Memory) (a c : Nat) (b : Byte) :
    Memory.read (Memory.write m a b) c = if c = a then some b else Memory.read m c := by
  simp only [Memory.read_eq, Memory.write, lookup_insert]

/-- Read after a word write: big-endian lanes, and every other byte as before. -/
theorem Memory.read_writeWord (m : Memory) (a c : Nat) (v : Word) :
    Memory.read (Memory.writeWord m a v) c =
      if a ≤ c ∧ c < a + 4 then some (byteOfWord v (c - a)) else Memory.read m c := by
  simp only [Memory.writeWord, Memory.read_write]
  by_cases h3 : c = a + 3
  · subst h3; simp
  by_cases h2 : c = a + 2
  · subst h2; simp
  by_cases h1 : c = a + 1
  · subst h1; simp
  by_cases h0 : c = a
  · subst h0; simp
  · have : ¬ (a ≤ c ∧ c < a + 4) := by omega
    simp [h0, h1, h2, h3, this]

/-- A byte write keeps the canonical form. -/
theorem Memory.wf_write {m : Memory} (h : Memory.wf m = true) (a : Nat) (b : Byte) :
    Memory.wf (Memory.write m a b) = true :=
  rising_insert h a b

/-- A word write keeps the canonical form. -/
theorem Memory.wf_writeWord {m : Memory} (h : Memory.wf m = true) (a : Nat) (v : Word) :
    Memory.wf (Memory.writeWord m a v) = true := by
  unfold Memory.writeWord
  exact wf_write (wf_write (wf_write (wf_write h _ _) _ _) _ _) _ _

/-- Reset memory is in canonical form. -/
theorem Memory.wf_reset : Memory.wf State.reset.msg = true := rfl

/-- Equal memories are equal data. -/
theorem Memory.eq_of_read_eq {m m' : Memory} (hm : Memory.wf m = true) (hm' : Memory.wf m' = true)
    (h : ∀ a, Memory.read m a = Memory.read m' a) : m = m' :=
  eq_of_lookup_eq hm hm' (by simpa only [Memory.read_eq] using h)

end Sys2Proof.Machine
end

