-- ==== Sys2Proof/Laws/Transactions.lean ====
section
/-! SUPPORT. What a host transaction can do, said once (45_host_commands.md R200-R212). -/

namespace Sys2Proof.Machine

/-- The state with another response and another number of draws taken: all a read changes (R61). -/
def answered (r : Option Word) (d : Nat) (s : State) : State := { s with rdata := r, draws := d }

/-- A write of the command word of i to CMD. -/
def IsCommand (x : Transaction) (i : Instr) : Prop :=
  x.space = .reg ∧ x.dir = .wr ∧ x.width = 4 ∧ x.addr = 0x000 ∧ decode x.data = .command i

theorem respond_eq_answered (r : Option Word) (s : State) : respond r s = answered r s.draws s := rfl

theorem respondDraw_eq_answered (s : State) :
    respondDraw s = answered (some (Config.freeWord s.draws)) (s.draws + 1) s := rfl

theorem answered_answered (r r' : Option Word) (d d' : Nat) (s : State) :
    answered r d (answered r' d' s) = answered r d s := rfl

/-- Fault entry commutes with the response. -/
theorem raiseFault_answered (c : Cause) (r : Option Word) (d : Nat) (s : State) :
    raiseFault c (answered r d s) = answered r d (raiseFault c s) := by
  by_cases h : s.phase = .fault
  · rw [raiseFault_of_fault c h, raiseFault_of_fault c (show (answered r d s).phase = .fault from h)]
  · rw [raiseFault_of_not_fault c h, raiseFault_of_not_fault c (show (answered r d s).phase ≠ .fault from h)]; rfl

/-- A register below 0x1000 is CMD exactly at offset 0. -/
theorem regAt_cmd {off : Nat} (h : regAt off = some .cmd) : off = 0 := by
  unfold regAt at h
  split at h
  · simp at h
  · split at h
    · assumption
    · exfalso
      repeat' split at h
      all_goals simp at h

/-- Every register sits at its offset, and nowhere else (R32). -/
theorem regAt_eq_some {off : Nat} {r : Reg} : regAt off = some r ↔ off = regOffset r := by
  constructor
  · intro h
    unfold regAt at h
    repeat' split at h
    all_goals simp only [Option.some.injEq, reduceCtorEq] at h
    all_goals subst h
    all_goals simp only [regOffset, Fin.ofNat]
    all_goals omega
  · rintro rfl
    cases r with
    | cmd => rfl
    | status => rfl
    | lenLo => rfl
    | lenHi => rfl
    | digest j => revert j; decide
    | hex m => revert m; decide

/-- A register read answers, and changes nothing else. -/
theorem regRead_answered (r : Reg) (s : State) : ∃ v d, regRead r s = answered (some v) d s := by
  have draw : ∃ v d, respondDraw s = answered (some v) d s := ⟨_, _, respondDraw_eq_answered s⟩
  cases r with
  | digest j =>
    simp only [regRead, readDigest]
    split
    · exact ⟨_, _, respond_eq_answered _ s⟩
    · exact draw
  | hex m =>
    simp only [regRead, readHex]
    split
    · exact ⟨_, _, respond_eq_answered _ s⟩
    · exact draw
  | cmd => exact ⟨_, _, respond_eq_answered _ s⟩
  | status => exact ⟨_, _, respond_eq_answered _ s⟩
  | lenLo => exact ⟨_, _, respond_eq_answered _ s⟩
  | lenHi => exact ⟨_, _, respond_eq_answered _ s⟩

/-- A refused access raises BAD_ACCESS, and answers a read. -/
theorem badAccess_answered (dir : Dir) (s : State) :
    ∃ r d, (dir = .rd → r.isSome = true) ∧ badAccess dir s = answered r d (raiseFault .badAccess s) := by
  cases dir with
  | rd => exact ⟨_, _, fun _ => rfl, respondDraw_eq_answered _⟩
  | wr => exact ⟨s.rdata, s.draws, nofun, by rw [badAccess_wr, ← raiseFault_answered]; rfl⟩

/-- Everything a transaction can do (R200-R212): answer a read; raise a fault; run a command; write a length word or the
message buffer, outside the BUSY phases. -/
theorem transact_cases {x : Transaction} {s u : State} (h : transact x s = .next u) :
    (∃ v d, x.dir = .rd ∧ u = answered (some v) d s) ∨
    (∃ c r d, c ≠ .none ∧ (x.dir = .rd → r.isSome = true) ∧ u = answered r d (raiseFault c s)) ∨
    (∃ i, IsCommand x i ∧ exec i (respond none s) = .next u) ∨
    (isBusy s.phase = false ∧ x.space = .reg ∧ x.dir = .wr ∧ x.addr = 0x008 ∧ u = setLenLo x.data (respond none s)) ∨
    (isBusy s.phase = false ∧ x.space = .reg ∧ x.dir = .wr ∧ x.addr = 0x00C ∧ u = setLenHi x.data (respond none s)) ∨
    (isBusy s.phase = false ∧ x.space = .msg ∧ x.dir = .wr ∧ msgAccessOk (capacity s) x.width x.addr = true ∧
      u = setMsg (msgStore x.width x.addr x.data s.msg) (respond none s)) := by
  have bad : ∀ dir, x.dir = dir → badAccess dir (respond none s) = u →
      ∃ c r d, c ≠ .none ∧ (x.dir = .rd → r.isSome = true) ∧ u = answered r d (raiseFault c s) := by
    intro dir hdir hu
    obtain ⟨r, d, hr, hb⟩ := badAccess_answered dir (respond none s)
    exact ⟨.badAccess, r, d, nofun, hdir ▸ hr, by rw [← hu, hb, respond_eq_answered, raiseFault_answered, answered_answered]⟩
  have raised : ∀ c, x.dir = .wr → raiseFault c (respond none s) = u → c ≠ .none →
      ∃ c r d, c ≠ .none ∧ (x.dir = .rd → r.isSome = true) ∧ u = answered r d (raiseFault c s) := by
    intro c hdir hu hc
    exact ⟨c, none, s.draws, hc, by simp [hdir], by rw [← hu, respond_eq_answered, raiseFault_answered]⟩
  unfold transact at h
  split at h
  case h_1 hsp =>
    unfold regAccess at h
    split at h
    · exact .inr (.inl (bad _ rfl (by simpa using h)))
    · split at h
      · exact .inr (.inl (bad _ rfl (by simpa using h)))
      · rename_i r hr hdir
        cases r with
        | cmd =>
          simp only [regWrite, cmdWrite] at h
          split at h
          · exact .inr (.inr (.inl ⟨_, ⟨hsp, hdir, by simp_all, regAt_cmd hr, ‹_›⟩, h⟩))
          · exact .inr (.inl (raised .illegalCommand hdir (by simpa using h) nofun))
          · exact .inr (.inl (raised .malformedParameterSet hdir (by simpa using h) nofun))
        | status => exact .inr (.inl (bad .wr hdir (by simpa [regWrite] using h)))
        | digest j => exact .inr (.inl (bad .wr hdir (by simpa [regWrite] using h)))
        | hex m => exact .inr (.inl (bad .wr hdir (by simpa [regWrite] using h)))
        | lenLo =>
          simp only [regWrite, writeLenLo, Host.Outcome.next.injEq] at h
          split at h
          · exact .inr (.inl (raised .busyViolation hdir h nofun))
          · exact .inr (.inr (.inr (.inl ⟨by simp_all, hsp, hdir, regAt_eq_some.mp hr, h.symm⟩)))
        | lenHi =>
          simp only [regWrite, writeLenHi, Host.Outcome.next.injEq] at h
          split at h
          · exact .inr (.inl (raised .busyViolation hdir h nofun))
          · exact .inr (.inr (.inr (.inr (.inl ⟨by simp_all, hsp, hdir, regAt_eq_some.mp hr, h.symm⟩))))
      · rename_i r hr hdir
        obtain ⟨v, d, hv⟩ := regRead_answered r (respond none s)
        simp only [Host.Outcome.next.injEq] at h
        exact .inl ⟨v, d, hdir, by rw [← h, hv, respond_eq_answered, answered_answered]⟩
  case h_2 hsp =>
    simp only [Host.Outcome.next.injEq] at h
    unfold msgAccess at h
    split at h
    case h_1 hdir =>
      unfold msgRead at h
      split at h
      · exact .inl ⟨_, _, hdir, by rw [← h]; rfl⟩
      · exact .inr (.inl (bad _ hdir h))
    case h_2 hdir =>
      unfold msgWrite at h
      split at h
      · split at h
        · exact .inr (.inl (raised .busyViolation hdir h nofun))
        · exact .inr (.inr (.inr (.inr (.inr ⟨by simp_all, hsp, hdir, ‹_›, h.symm⟩))))
      · exact .inr (.inl (bad _ hdir h))

/-- A transaction never stops the machine. -/
theorem transact_next (x : Transaction) (s : State) : ∃ u, transact x s = .next u := by
  unfold transact
  split
  · unfold regAccess
    split
    · exact ⟨_, rfl⟩
    · split
      · exact ⟨_, rfl⟩
      · rename_i r _ _
        cases r with
        | cmd =>
          simp only [regWrite, cmdWrite]
          split
          · rename_i i _
            cases i <;> exact ⟨_, rfl⟩
          · exact ⟨_, rfl⟩
          · exact ⟨_, rfl⟩
        | status => exact ⟨_, rfl⟩
        | lenLo => exact ⟨_, rfl⟩
        | lenHi => exact ⟨_, rfl⟩
        | digest j => exact ⟨_, rfl⟩
        | hex m => exact ⟨_, rfl⟩
      · exact ⟨_, rfl⟩
  · exact ⟨_, rfl⟩

end Sys2Proof.Machine
end

