-- ==== Sys2Proof/Laws/Moves.lean ====
section
/-! SUPPORT. What the host's move and a whole step can do, said once. -/

namespace Sys2Proof.Machine

/-- The state with another program left and other variables: what a host move does besides its transaction. -/
def hostAt (p : List HostLine) (v : List (Nat × Word)) (s : State) : State := { s with program := p, vars := v }

theorem onNext_eq_next {o : Host.Outcome State Fault Refusal} {f : State → Host.Outcome State Fault Refusal} {u : State} :
    onNext o f = .next u ↔ ∃ w, o = .next w ∧ f w = .next u := by
  cases o <;> simp [onNext]

/-- Binding the response changes the variables only. -/
theorem bindResponse_cases (b : Option Nat) (s : State) :
    bindResponse b s = s ∨ ∃ x v, bindResponse b s = hostAt s.program (insert s.vars x v) s := by
  unfold bindResponse
  split
  · exact .inr ⟨_, _, rfl⟩
  · exact .inl rfl
  · exact .inl rfl

/-- The transaction a host line issues (R79, R80). -/
def lineTransaction (s : State) : HostLine → Transaction
  | .access space dir width addr data _ => ⟨space, dir, width, addr, operandValue s data⟩
  | .poll off _ _ => ⟨.reg, .rd, 4, off, 0⟩

/-- Everything a host move can do: nothing without a program, else the transaction of its first line, and then only the
rest of the program and the variables. -/
theorem hostMove_cases {s u : State} (h : hostMove s = .next u) :
    (s.program = [] ∧ u = s) ∨
    (∃ l rest p w p' v', s.program = l :: rest ∧ transact (lineTransaction s l) { s with program := p } = .next w ∧
      u = hostAt p' v' w ∧ (v' = w.vars ∨ ∃ x d, v' = insert w.vars x d)) := by
  unfold hostMove at h
  split at h
  · exact .inl ⟨‹_›, by simpa using h.symm⟩
  · rename_i sp dir width addr data b rest hprog
    obtain ⟨w, hw, hu⟩ := onNext_eq_next.mp h
    simp only [Host.Outcome.next.injEq] at hu
    obtain hb | ⟨x, d, hb⟩ := bindResponse_cases b w
    · exact .inr ⟨_, rest, rest, w, w.program, w.vars, hprog, hw, by rw [← hu, hb]; rfl, .inl rfl⟩
    · exact .inr ⟨_, rest, rest, w, w.program, _, hprog, hw, by rw [← hu, hb], .inr ⟨x, d, rfl⟩⟩
  · rename_i off mask test rest hprog
    obtain ⟨w, hw, hu⟩ := onNext_eq_next.mp h
    simp only [Host.Outcome.next.injEq] at hu
    refine .inr ⟨_, rest, s.program, w, u.program, w.vars, hprog, hw, ?_, .inl rfl⟩
    subst hu
    split <;> rfl

/-- A step is the move of the next turn's owner. -/
theorem step_cases {s u : State} (h : step s = .next u) :
    (nextTurn s = .host ∧ hostMove (dropTurn s) = .next u) ∨
    (nextTurn s = .sequencer ∧ sequencerMove (dropTurn s) = .next u) ∨
    (nextTurn s = .reset ∧ u = resetCore (dropTurn s)) := by
  unfold step at h
  generalize nextTurn s = w at h ⊢
  cases w with
  | host => exact .inl ⟨rfl, h⟩
  | sequencer => exact .inr (.inl ⟨rfl, h⟩)
  | reset => exact .inr (.inr ⟨rfl, by simpa [move] using h.symm⟩)

end Sys2Proof.Machine
end

