-- ==== Sys2Proof/Laws/Invariant.lean ====
section
/-! SUPPORT. The invariant under the shared operations: answering, fault entry, the commands' two writes, reset. -/

namespace Sys2Proof.Machine

/-- Outside the BUSY phases the clauses by phase are empty, but for DONE's. -/
theorem inv_of_not_busy {u : State} (memory : Memory.wf u.msg = true)
    (inBuffer : ∀ a, (Memory.read u.msg a).isSome = true → a < capacity u) (hostVars : rising u.vars = true)
    (cause : u.cause = .none ↔ u.phase ≠ .fault) (blockCount : 1 ≤ u.n) (blockIndex : u.blk ≤ u.n)
    (roundCounter : u.t ≤ 80) (latchedLength : u.lenL ≤ capacity u) (notBusy : isBusy u.phase = false)
    (formatted : u.phase = .done → u.hexbuf.toList.take (8 * outWords u.algL) = format u.H (outWords u.algL)) :
    Inv u := by
  refine ⟨memory, inBuffer, hostVars, cause, blockCount, blockIndex, roundCounter, latchedLength,
    ?_, ?_, ?_, ?_, ?_, ?_, ?_, ?_, ?_, ?_, ?_, ?_, formatted⟩ <;> intro h <;> rw [h] at notBusy <;> simp [isBusy] at notBusy

/-- The invariant says nothing of the response, the draws, the schedule or the program. -/
theorem inv_congr {s : State} (r : Option Word) (d : Nat) (w : List Turn) (p : List HostLine) (h : Inv s) :
    Inv { s with rdata := r, draws := d, turns := w, program := p } := by
  obtain ⟨a1, a2, a3, a4, a5, a6, a7, a8, a9, a10, a11, a12, a13, a14, a15, a16, a17, a18, a19, a20, a21⟩ := h
  exact ⟨a1, a2, a3, a4, a5, a6, a7, a8, a9, a10, a11, a12, a13, a14, a15, a16, a17, a18, a19, a20, a21⟩

theorem inv_hostAt {s : State} (p : List HostLine) {v : List (Nat × Word)} (h : Inv s) (hv : rising v = true) :
    Inv (hostAt p v s) := by
  obtain ⟨a1, a2, a3, a4, a5, a6, a7, a8, a9, a10, a11, a12, a13, a14, a15, a16, a17, a18, a19, a20, a21⟩ := h
  exact ⟨a1, a2, hv, a4, a5, a6, a7, a8, a9, a10, a11, a12, a13, a14, a15, a16, a17, a18, a19, a20, a21⟩

theorem inv_raiseFault {s : State} {c : Cause} (hc : c ≠ .none) (h : Inv s) : Inv (raiseFault c s) := by
  by_cases hf : s.phase = .fault
  · rw [raiseFault_of_fault _ hf]; exact h
  · rw [raiseFault_of_not_fault _ hf]
    exact inv_of_not_busy h.memory h.inBuffer h.hostVars (by simp [hc]) h.blockCount h.blockIndex h.roundCounter
      h.latchedLength rfl (by simp)

theorem inv_leaveFault {s : State} (h : Inv s) : Inv (leaveFault s) :=
  inv_of_not_busy h.memory h.inBuffer h.hostVars (by simp) h.blockCount h.blockIndex h.roundCounter h.latchedLength
    rfl (by simp)

theorem inv_beginDigest {s : State} (g : Alg) (h : Inv s) (hp : s.phase = .idle ∨ s.phase = .done)
    (hl : messageLength s ≤ capacity s) : Inv (beginDigest g (messageLength s) s) := by
  have hn : 1 ≤ nblocks (messageLength s) := by unfold nblocks; omega
  have ht := startRound_le g s.draws
  refine ⟨h.memory, h.inBuffer, h.hostVars, ?_, hn, Nat.zero_le _, Nat.le_trans ht (roundCount_le g), hl,
    fun _ => rfl, fun _ => rfl, fun _ => ht, fun _ => hn, ?_, ?_, ?_, ?_, ?_, ?_, ?_, ?_, ?_⟩
  · have hc := h.cause
    simp only [beginDigest]
    rw [hc]
    rcases hp with h | h <;> simp [h]
  all_goals (intro hh; cases hh)

end Sys2Proof.Machine
end

