-- ==== Sys2Proof/WellFormed.lean ====
section
/-! DEFINITION. Well-formedness: of a command (it has no operand to check), of a bus transaction (the six kinds of
30_encoding.md R71 with the field ranges of R70) and of a host program (R79, R80). A transaction that is not well formed
is no error of the model: the core answers it with BAD_ACCESS (R210-R212). -/

namespace Sys2Proof

/-- A command word has no operand beyond its row (R74, R75), so every instruction is well formed. -/
def Instr.wellFormed : Instr → Bool
  | .nop => true
  | .startSha1 => true
  | .startSha224 => true
  | .startSha256 => true
  | .clear => true

namespace Machine

/-- The width column of R70: REG admits 4 only, MSG admits 1 and 4. -/
def Transaction.widthOk (x : Transaction) : Bool :=
  match x.space with
  | .reg => x.width == 4
  | .msg => x.width == 1 || x.width == 4

/-- The address column of R70, with the capacity of the buffer as a parameter: a 12-bit offset, or 0 .. MSG_CAP - 1. -/
def Transaction.addrOk (cap : Nat) (x : Transaction) : Bool :=
  match x.space with
  | .reg => decide (x.addr < 0x1000)
  | .msg => decide (x.addr < cap)

/-- The data column of R70: a write carries width*8 bits, a read none. -/
def Transaction.dataOk (x : Transaction) : Bool :=
  match x.dir with
  | .rd => x.data == 0
  | .wr => decide (x.data.toNat < 2 ^ (8 * x.width))

/-- A transaction with every field in the range R70 gives it: one of the six kinds of R71. -/
def Transaction.wellFormed (cap : Nat) (x : Transaction) : Bool :=
  x.widthOk && x.addrOk cap && x.dataOk

/-- A data operand names only variables bound before it (R79). -/
def DataOperand.bound (bound : List Nat) : DataOperand → Bool
  | .literal _ => true
  | .var x => bound.contains x

/-- A host program names no variable before a read has bound it, and binds only on reads (R79). That it
accepts an MRD8 that binds is a DESIGN CHOICE, safe (log entry 13). -/
def programWellFormed (bound : List Nat) : List HostLine → Bool
  | [] => true
  | .access _ .rd _ _ _ (some x) :: rest => programWellFormed (x :: bound) rest
  | .access _ .rd _ _ _ none :: rest => programWellFormed bound rest
  | .access _ .wr _ _ v none :: rest => v.bound bound && programWellFormed bound rest
  | .access _ .wr _ _ _ (some _) :: _ => false
  | .poll _ _ _ :: rest => programWellFormed bound rest

end Machine

end Sys2Proof
end

