-- ==== Sys2Proof/Laws/PerInstr.lean ====
section
/-! SUPPORT. The family Encoding: every instruction's word decodes to it, is one 32-bit word with the zero field zero, and
the instruction is well formed (30_encoding.md R72, R75, R77). -/

namespace Sys2Proof.Laws

/-- What the family says of one instruction. -/
def Encoding.Statement (i : Instr) : Prop :=
  decode (encode i) = .command i ∧ zeroField (encode i) = 0 ∧ i.wellFormed = true

theorem Encoding.nop : Encoding.Statement .nop := by unfold Encoding.Statement; decide

theorem Encoding.startSha1 : Encoding.Statement .startSha1 := by unfold Encoding.Statement; decide

theorem Encoding.startSha224 : Encoding.Statement .startSha224 := by unfold Encoding.Statement; decide

theorem Encoding.startSha256 : Encoding.Statement .startSha256 := by unfold Encoding.Statement; decide

theorem Encoding.clear : Encoding.Statement .clear := by unfold Encoding.Statement; decide

end Sys2Proof.Laws
end

