-- ==== Sys2Proof/Tests/Slice0.lean ====
section
/-! SUPPORT. The model's own tests. Each is one step or one small evaluation; every expected value is taken from the spec,
most from 95_test_vectors.md. The last part has, for each obligation with hypotheses, a witness that meets them. -/

namespace Sys2Proof.Tests

open Sys2Proof Sys2Proof.Machine

/-! Helpers: the start states of 95_test_vectors.md section 2.8, MSG_CAP = 128. -/

/-- The next state of an outcome. -/
def after : Host.Outcome State Fault Refusal → Option State
  | .next s => some s
  | .fault _ => none
  | .refused _ => none

/-- A core straight after reset, with a buffer of 128 bytes. -/
def fresh : State := { State.reset with msgCap := 128 }

/-- The state IDLE of section 2.8: msg[0..2] = 61 62 63. -/
def idle : State := { fresh with msg := [(0, 0x61), (1, 0x62), (2, 0x63)] }

/-- The state ROUND of section 2.8: SHA-1 of "abc" after LOAD and EXPAND, with the schedule words the tests read. -/
def inRound : State :=
  { idle with
    phase := .round
    lenLo := 3
    lenL := 3
    H := loadIv .sha1 (Vector.replicate 8 0)
    work := loadIv .sha1 (Vector.replicate 8 0)
    W := (Vector.replicate 80 0).set 0 0x61626380 }

/-- The state DONE of section 2.8: SHA-1 of "abc", the digest words of section 2.4. -/
def done : State :=
  { idle with
    phase := .done
    lenLo := 3
    lenL := 3
    blk := 1
    t := 80
    H := #v[0xa9993e36, 0x4706816a, 0xba3e2571, 0x7850c26c, 0x9cd0d89d, 0, 0, 0]
    hexbuf := formatInto #v[0xa9993e36, 0x4706816a, 0xba3e2571, 0x7850c26c, 0x9cd0d89d, 0, 0, 0] 5
      (Vector.replicate 64 .d0) }

/-- The state FAULT1 of section 2.8. -/
def fault1 : State := { idle with phase := .fault, cause := .malformedParameterSet }

/-- A REG_WR. -/
def regWr (off : Nat) (v : Word) (s : State) : Option State := after (transact ⟨.reg, .wr, 4, off, v⟩ s)

/-- What a REG_RD returns. -/
def regRd (off : Nat) (s : State) : Option Word := (after (transact ⟨.reg, .rd, 4, off, 0⟩ s)).bind (·.rdata)

/-- STATUS in a state. -/
def status (s : Option State) : Option Word := s.bind (regRd 0x004)

/-! Decoding: each word written out from the fields of 30_encoding.md R72 and R75 (zero 31:6, ALG 5:4, OP 3:0). -/

theorem test_decode_nop : decode 0b00000000000000000000000000_00_0000 = .command .nop := by decide

theorem test_decode_start_sha1 : decode 0b00000000000000000000000000_00_0001 = .command .startSha1 := by decide

theorem test_decode_start_sha224 : decode 0b00000000000000000000000000_01_0001 = .command .startSha224 := by decide

theorem test_decode_start_sha256 : decode 0b00000000000000000000000000_10_0001 = .command .startSha256 := by decide

theorem test_decode_clear : decode 0b00000000000000000000000000_00_0010 = .command .clear := by decide

/-- The reserved words of section 2.8's decoding table. -/
theorem test_decode_reserved :
    decode 0x31 = .startReservedAlg ∧ decode 0x03 = .illegal ∧ decode 0x0f = .illegal ∧ decode 0x12 = .illegal ∧
    decode 0x22 = .illegal ∧ decode 0x10 = .illegal ∧ decode 0x41 = .illegal ∧ decode 0x71 = .illegal ∧
    decode 0x80000001 = .illegal := by decide

/-- The five rows of spec/opcode_table.json, 32 bits each. -/
theorem test_decode_table_words :
    decodeTableWord 32 0x00 = some .nop ∧ decodeTableWord 32 0x01 = some .startSha1 ∧
    decodeTableWord 32 0x11 = some .startSha224 ∧ decodeTableWord 32 0x21 = some .startSha256 ∧
    decodeTableWord 32 0x02 = some .clear ∧ decodeTableWord 32 0x31 = none := by decide

/-- A command word put where the next step takes it is run by that step (R70, R77). -/
theorem test_with_fetch_word :
    (after (step (fresh.withFetchWord 32 0x21))).map (fun s => (s.phase, s.algL)) = some (.load, .sha256) := by decide

/-! Well-formedness: an ill-formed term for each check. -/

theorem test_wf_width_refused :
    (Transaction.mk .reg .wr 1 0x000 1).widthOk = false ∧ (Transaction.mk .msg .wr 2 0 1).widthOk = false := by decide

theorem test_wf_addr_refused :
    (Transaction.mk .reg .rd 4 0x1000 0).addrOk 128 = false ∧ (Transaction.mk .msg .rd 1 128 0).addrOk 128 = false := by
  decide

theorem test_wf_data_refused :
    (Transaction.mk .msg .wr 1 0 0x100).dataOk = false ∧ (Transaction.mk .msg .rd 1 0 1).dataOk = false := by decide

theorem test_wf_accepted :
    (Transaction.mk .reg .wr 4 0x000 1).wellFormed 128 = true ∧ (Transaction.mk .msg .wr 1 127 0xff).wellFormed 128 = true ∧
    (Transaction.mk .msg .wr 4 124 0x11223344).wellFormed 128 = true := by decide

theorem test_wf_unbound_variable_refused : programWellFormed [] [wrLine 0x008 (.var 0)] = false := by decide

theorem test_wf_bind_on_write_refused :
    programWellFormed [] [.access .reg .wr 4 0x008 (.literal 0) (some 0)] = false := by decide

theorem test_wf_program_accepted :
    programWellFormed [] [rdLine 0x080 (some 0), waitDone, mwr32Line 0 (.var 0)] = true := by decide

/-! Commands (section 2.8). -/

theorem test_nop_in_done : regWr 0x000 0 done = some { done with rdata := none } := by decide

theorem test_nop_while_busy : regWr 0x000 0 inRound = some { inRound with rdata := none } := by decide

theorem test_clear_in_fault : regWr 0x000 2 fault1 = some idle := by decide

theorem test_clear_abandons : status (regWr 0x000 2 inRound) = some 0 := by decide

/-- L = 128 = MSG_CAP is accepted, with three blocks (section 2.1.1). -/
theorem test_start_sha1_at_capacity :
    (regWr 0x000 1 { idle with lenLo := 128 }).map (fun s => (s.phase, s.lenL, s.n, s.H[4])) =
      some (.load, 128, 3, 0xC3D2E1F0) := by decide

theorem test_start_sha1_keeps_upper_words :
    (regWr 0x000 1 { idle with H := Vector.replicate 8 7 }).map (fun s => (s.H[5], s.H[7])) = some (7, 7) := by decide

theorem test_start_sha224_writes_eight_words :
    (regWr 0x000 0x11 idle).map (fun s => (s.algL, s.H[0], s.H[7])) = some (.sha224, 0xC1059ED8, 0xBEFA4FA4) := by decide

/-- LEN_HI = 1 makes L = 2^32, above the capacity. -/
theorem test_start_sha224_length_range :
    status (regWr 0x000 0x11 { idle with lenHi := 1 }) = some 0x00000304 := by decide

theorem test_start_sha256_from_done :
    (regWr 0x000 0x21 done).map (fun s => (s.phase, s.blk, s.H[7])) = some (.load, 0, 0x5BE0CD19) := by decide

theorem test_start_sha256_while_busy : status (regWr 0x000 0x21 inRound) = some 0x00000404 := by decide

/-! Registers and the message buffer (section 2.8). -/

theorem test_reads_in_round :
    regRd 0x004 inRound = some 1 ∧ regRd 0x008 inRound = some 3 ∧ regRd 0x000 inRound = some 0 := by decide

theorem test_reads_in_done :
    regRd 0x004 done = some 2 ∧ regRd 0x040 done = some 0xa9993e36 ∧ regRd 0x054 done = some 0 ∧
    regRd 0x080 done = some 0x61393939 ∧ regRd 0x0A4 done = some 0x64383964 ∧ regRd 0x0A8 done = some 0 := by decide

theorem test_mrd8 : (after (transact ⟨.msg, .rd, 1, 0, 0⟩ idle)).bind (·.rdata) = some 0x61 := by decide

/-- MRD32 0 returns 61 62 63 and then the draw of the byte never written. -/
theorem test_mrd32_unwritten_byte :
    ((after (transact ⟨.msg, .rd, 4, 0, 0⟩ idle)).bind (·.rdata)) = some ((0x616263 : BitVec 24) ++ Config.unwrittenByte 0 3) := rfl

theorem test_mwr32_top :
    (after (transact ⟨.msg, .wr, 4, 124, 0x11223344⟩ fresh)).map (·.msg) =
      some [(124, 0x11), (125, 0x22), (126, 0x33), (127, 0x44)] := by decide

theorem test_mwr_out_of_range :
    status (after (transact ⟨.msg, .wr, 4, 128, 0⟩ idle)) = some 0x504 ∧
    status (after (transact ⟨.msg, .wr, 1, 128, 0⟩ idle)) = some 0x504 ∧
    status (after (transact ⟨.msg, .wr, 2, 0, 0⟩ idle)) = some 0x504 := by decide

theorem test_bad_reads :
    status (after (transact ⟨.reg, .rd, 4, 0x010, 0⟩ idle)) = some 0x504 ∧
    status (after (transact ⟨.reg, .rd, 4, 0xFFC, 0⟩ idle)) = some 0x504 ∧
    status (after (transact ⟨.reg, .rd, 4, 0x006, 0⟩ idle)) = some 0x504 := by decide

theorem test_busy_writes :
    status (regWr 0x008 5 inRound) = some 0x404 ∧ (regWr 0x008 5 inRound).map (·.lenLo) = some 3 ∧
    status (after (transact ⟨.msg, .wr, 1, 0, 0⟩ inRound)) = some 0x404 := by decide

theorem test_priority :
    status (regWr 0x000 0x31 inRound) = some 0x104 ∧ status (regWr 0x000 0x71 inRound) = some 0x204 ∧
    status (after (transact ⟨.reg, .wr, 1, 0x000, 0x31⟩ idle)) = some 0x504 ∧
    status (after (transact ⟨.msg, .wr, 4, 2, 0⟩ inRound)) = some 0x504 := by decide

theorem test_fault_is_sticky :
    status (regWr 0x000 3 fault1) = some 0x104 ∧ status (regWr 0x004 0 fault1) = some 0x104 ∧
    (regWr 0x008 7 fault1).map (·.lenLo) = some 7 ∧ status (regWr 0x000 1 fault1) = some 0x104 := by decide

/-- A host line that reads msg[0] and binds it, and one that writes what a variable holds (R79). -/
theorem test_host_lines :
    (after (step { idle with program := [mrd8Line 0 (some 2)] })).map (·.vars) = some [(2, 0x61)] ∧
    (after (step { idle with program := [wrLine 0x008 (.var 2)], vars := [(2, 0x61)] })).map (·.lenLo) = some 0x61 := by
  decide

/-- A refused write in FAULT writes nothing and keeps the first cause (60_exceptions.md R242). -/
theorem test_refused_writes_in_fault :
    after (transact ⟨.msg, .wr, 4, 2, 0⟩ fault1) = some fault1 ∧ after (transact ⟨.msg, .wr, 1, 128, 0⟩ fault1) = some fault1 ∧
    after (transact ⟨.reg, .wr, 1, 0x008, 7⟩ fault1) = some fault1 ∧ regWr 0x010 7 fault1 = some fault1 := by decide

/-! The sequencer: one step each (sections 1.3, 2.2 to 2.5, 2.7). -/

/-- LOAD of the block of "abc". -/
theorem test_load :
    (after (sequencerMove { inRound with phase := .load })).map (fun s => (s.W[0], s.W[1], s.W[14], s.W[15], s.work[4])) =
      some (0x61626380, 0, 0, 0x18, 0xC3D2E1F0) := by decide

/-- The block with W[0] = 1 and the rest 0. -/
theorem test_expand_sha1 :
    (after (sequencerMove { inRound with phase := .expand, W := (Vector.replicate 80 0).set 0 1 })).map
      (fun s => (s.W[16], s.W[17], s.W[19], s.W[22])) = some (2, 0, 4, 8) := by decide +kernel

theorem test_expand_sha2 :
    (after (sequencerMove { inRound with
        phase := .expand, algL := .sha256, W := (Vector.replicate 80 0).set 0 1 })).map
      (fun s => (s.W[16], s.W[18], s.W[20], s.W[22], s.W[23], s.W[64])) =
        some (1, 0xa000, 0x44000028, 0x2a80, 1, 0) := by decide +kernel

/-- SHA-1 "abc", round 0. -/
theorem test_round1 :
    (after (sequencerMove inRound)).map (fun s => (s.work.toList.take 5, s.t)) =
      some ([0x0116fc33, 0x67452301, 0x7bf36ae2, 0x98badcfe, 0x10325476], 1) := by decide

/-- SHA-256 "abc", round 0. -/
theorem test_round2 :
    (after (sequencerMove { inRound with algL := .sha256, work := iv256 })).map (fun s => s.work.toList) =
      some [0x5d6aebcd, 0x6a09e667, 0xbb67ae85, 0x3c6ef372, 0xfa2a4622, 0x510e527f, 0x9b05688c, 0x1f83d9ab] := by decide

/-- SHA-256 "abc", round 63, with K256[63]. -/
theorem test_round2_last :
    (after (sequencerMove { inRound with
        algL := .sha256
        t := 63
        W := (Vector.replicate 80 0).set 63 0x12b1edeb
        work := #v[0xd39a2165, 0x04d24d6c, 0xb85e2ce9, 0xb6ae8fff, 0xfb121210, 0x948d25b6, 0x961f4894, 0xb21bad3d] })).map
      (fun s => (s.work.toList, s.phase)) =
        some ([0x506e3058, 0xd39a2165, 0x04d24d6c, 0xb85e2ce9, 0x5ef50f24, 0xfb121210, 0x948d25b6, 0x961f4894],
          .addback) := by decide

/-- SHA-1 "abc": the working state after round 79 gives the digest. -/
theorem test_addback :
    (after (sequencerMove { inRound with
        phase := .addback, t := 80, work := #v[0x42541b35, 0x5738d5e1, 0x21834873, 0x681e6df6, 0xd8fdf6ad, 0, 0, 0] })).map
      (fun s => (s.H.toList.take 5, s.phase)) =
        some ([0xa9993e36, 0x4706816a, 0xba3e2571, 0x7850c26c, 0x9cd0d89d], .format) := by decide

/-- FORMAT of "da39a3ee...": the first word of SHA-1 of the empty message. -/
theorem test_format :
    (after (sequencerMove { done with phase := .format, H := done.H.set 0 0xda39a3ee })).map
      (fun s => (hexWord s.hexbuf 0, hexWord s.hexbuf 1, s.phase)) = some (0x64613339, 0x61336565, .done) := by decide

/-- The σ and Σ functions on 12345678. -/
theorem test_word_functions :
    sigma0 0x12345678 = 0xe7fce6ee ∧ sigma1 0x12345678 = 0xa1f78649 ∧ bigSigma0 0x12345678 = 0x66146474 ∧
    bigSigma1 0x12345678 = 0x3561abda ∧ rotl 0x12345678 5 = 0x468acf02 ∧ shr 0x80000001 3 = 0x10000000 := by decide

theorem test_block_counts :
    [0, 3, 55, 56, 57, 58, 59, 63, 64, 119, 120, 128, 1000000].map nblocks =
      [1, 1, 1, 2, 2, 2, 2, 2, 2, 2, 3, 3, 15626] := by decide

/-- Words 14 and 15 of a 57-byte message of 'a': not the length in block 0, the length in block 1. -/
theorem test_length_words_of_57_bytes :
    (blockWord (fun _ => 0x61) 57 2 0 14, blockWord (fun _ => 0x61) 57 2 0 15, blockWord (fun _ => 0x61) 57 2 1 14,
      blockWord (fun _ => 0x61) 57 2 1 15) = (0x61800000, 0, 0, 0x1c8) := by decide

/-! Witnesses: for each obligation with hypotheses, a state and operands that meet them all, each clause at a boundary of
its range. -/

/-- A state in a given phase, for the clauses that name phases. -/
def at_ (p : Phase) : State := { idle with phase := p }

theorem test_witness_step_runs_decoded_command :
    let s := { fresh with program := [cmdLine .startSha1], turns := [.host] }
    nextTurn s = .host ∧ s.program = .access .reg .wr 4 0x000 (.literal 1) none :: [] ∧
    decode (operandValue s (.literal 1)) = .command .startSha1 := by decide

/-- The same with the command word in a host variable. -/
theorem test_witness_step_runs_decoded_command_var :
    let s := { fresh with program := [.access .reg .wr 4 0x000 (.var 3) none], vars := [(3, 0x21)] }
    nextTurn s = .host ∧ lookup s.vars 3 = some 0x21 ∧ decode (operandValue s (.var 3)) = .command .startSha256 := by decide

/-- An access line that is no command: a byte read that binds a value, and a write that returns none. -/
theorem test_witness_step_runs_any_line :
    let s := { idle with program := [mrd8Line 0 (some 2)] }
    let r := { idle with program := [mwr8Line 0 (.var 2)] }
    (nextTurn s = .host ∧ s.program = .access .msg .rd 1 0 (.literal 0) (some 2) :: [] ∧
      (after (transact ⟨.msg, .rd, 1, 0, 0⟩ { s with program := [] })).bind (·.rdata) = some 0x61) ∧
    (nextTurn r = .host ∧ r.program = .access .msg .wr 1 0 (.var 2) none :: []) := by decide

theorem test_witness_step_follows_the_schedule :
    (∃ s : State, s.turns = .host :: []) ∧ (∃ s : State, s.turns = .sequencer :: []) ∧
    (∃ s : State, s.turns = .reset :: []) ∧
    (inRound.turns = [] ∧ inRound.phase ∈ [Phase.load, .expand, .round, .addback, .format]) ∧
    (fault1.turns = [] ∧ fault1.phase ∈ [Phase.idle, .done, .fault]) :=
  ⟨⟨{ fresh with turns := [.host] }, rfl⟩, ⟨{ fresh with turns := [.sequencer] }, rfl⟩,
    ⟨{ fresh with turns := [.reset] }, rfl⟩, by decide, by decide⟩

/-- Completion of the three STARTs: the empty message, and a message that fills the buffer, from DONE. -/
theorem test_witness_start_completes :
    (idle.phase = .idle ∧ messageLength idle ≤ capacity idle) ∧
    (let s := { done with lenLo := 128 }; s.phase = .done ∧ messageLength s = capacity s) := by decide

theorem test_witness_start_refusals :
    Instr.startSha1 ∈ [Instr.startSha1, .startSha224, .startSha256] ∧ fault1.phase = .fault ∧
    (at_ .load).phase ∈ [Phase.load, .expand, .round, .addback, .format] ∧
    (at_ .format).phase ∈ [Phase.load, .expand, .round, .addback, .format] ∧
    (let s := { idle with lenLo := 129 }; s.phase = .idle ∧ capacity s + 1 = messageLength s) := by decide

theorem test_witness_command_frame :
    (after (exec .nop idle)).isSome = true ∧ (after (exec .startSha1 idle)).isSome = true ∧
    (after (exec .startSha256 fault1)).isSome = true ∧ (after (exec .clear inRound)).isSome = true := by decide

/-- Each disjunct at both its ends, a read and a write. -/
theorem test_witness_illegal_reg_access :
    inRound.phase ≠ .fault ∧ fault1.phase = .fault ∧
    (Transaction.mk .reg .rd 1 0x000 0).width ≠ 4 ∧ (Transaction.mk .reg .wr 4 0x003 0).addr % 4 ≠ 0 ∧
    (∀ a ∈ [0x010, 0x03C], 0x010 ≤ (Transaction.mk .reg .rd 4 a 0).addr ∧ (Transaction.mk .reg .rd 4 a 0).addr ≤ 0x03C) ∧
    (∀ a ∈ [0x060, 0x07C], 0x060 ≤ (Transaction.mk .reg .wr 4 a 0).addr ∧ (Transaction.mk .reg .wr 4 a 0).addr ≤ 0x07C) ∧
    ∀ a ∈ [0x0C0, 0xFFC, 0x1000], 0x0C0 ≤ (Transaction.mk .reg .rd 4 a 0).addr := by decide

/-- A byte and a word just past the end, a misaligned word, a width MSG has not, and a huge address. -/
theorem test_witness_illegal_msg_access :
    idle.phase ≠ .fault ∧ fault1.phase = .fault ∧ capacity fault1 = capacity idle ∧
    ∀ x ∈ [Transaction.mk .msg .wr 1 128 0, .mk .msg .rd 4 128 0, .mk .msg .rd 4 125 0, .mk .msg .wr 2 0 0,
        .mk .msg .rd 0 0 0, .mk .msg .wr 4 0x10000000000000000 0],
      x.space = .msg ∧ ¬ (x.width = 1 ∧ x.addr < capacity idle) ∧
        ¬ (x.width = 4 ∧ x.addr % 4 = 0 ∧ x.addr + 4 ≤ capacity idle) := by decide

theorem test_witness_reserved_words :
    inRound.phase ≠ .fault ∧ 64 ≤ (64 : Word).toNat ∧ 64 ≤ (0xFFFFFFFF : Word).toNat ∧ 3 ≤ (3 : Word).toNat % 16 ∧
    3 ≤ (0x3F : Word).toNat % 16 ∧ ((0x10 : Word).toNat % 16 ≠ 1 ∧ (0x10 : Word).toNat / 16 % 4 ≠ 0) ∧
    ((0x32 : Word).toNat % 16 ≠ 1 ∧ (0x32 : Word).toNat / 16 % 4 ≠ 0) := by decide

theorem test_witness_fault_ignores_commands :
    fault1.phase = .fault ∧ (0 : Word) ≠ 2 ∧ (1 : Word) ≠ 2 ∧ (3 : Word) ≠ 2 ∧ (0xFFFFFFFF : Word) ≠ 2 := by decide

theorem test_witness_fault_is_sticky :
    fault1.phase = .fault ∧ (regWr 0x008 7 fault1).isSome = true ∧ (regWr 0x000 1 fault1).isSome = true ∧
    ¬ ((0x008 : Nat) = 0x000) ∧ ¬ ((1 : Word) = 2) := by decide

/-- A CLEAR and a reset each leave FAULT. -/
theorem test_witness_leaving_fault :
    (after (step { fault1 with program := [cmdLine .clear] })).map (·.phase) = some .idle ∧
    (after (step { fault1 with turns := [.reset] })).map (·.phase) = some .idle := by decide

theorem test_witness_fault_priority :
    (regWr 0x000 0x71 inRound).isSome = true ∧ decode 0x71 = .illegal ∧ decode 0x31 = .startReservedAlg ∧
    isBusy inRound.phase = true ∧ inRound.phase ≠ .fault ∧ (0x21 : Word) ∈ [(0x00000001 : Word), 0x00000011, 0x00000021] ∧
    (after (transact ⟨.reg, .wr, 1, 0x000, 0x31⟩ inRound)).isSome = true ∧
    (after (transact ⟨.msg, .wr, 4, 2, 0⟩ inRound)).isSome = true := by decide

theorem test_witness_length_write :
    (∀ p ∈ [Phase.load, .format], (at_ p).phase ∈ [Phase.load, .expand, .round, .addback, .format]) ∧
    ∀ p ∈ [Phase.idle, .done, .fault], (at_ p).phase ∈ [Phase.idle, .done, .fault] := by decide

/-- The first and the last read-only register of each group, in FAULT and outside it. -/
theorem test_witness_read_only_write :
    (∃ j < 8, 0x040 = 0x040 + 4 * j) ∧ (∃ j < 8, 0x05C = 0x040 + 4 * j) ∧ (∃ m < 16, 0x080 = 0x080 + 4 * m) ∧
    (∃ m < 16, 0x0BC = 0x080 + 4 * m) ∧ done.phase ≠ .fault ∧ fault1.phase = .fault := by decide

/-- j = 4 and j = 5, m = 9 and m = 10: the last word of a SHA-1 digest and the first past it. -/
theorem test_witness_digest_and_hex_read :
    let k := match done.algL with | .sha1 => 5 | .sha224 => 7 | .sha256 => 8
    done.phase = .done ∧ 4 < k ∧ k ≤ 5 ∧ 9 < 2 * k ∧ 2 * k ≤ 10 ∧ inRound.phase ≠ .done := by decide

/-- The same for SHA-224, whose last words are 6 and 13. -/
theorem test_witness_digest_and_hex_read_sha224 :
    let s := { done with algL := .sha224 }
    let k := match s.algL with | .sha1 => 5 | .sha224 => 7 | .sha256 => 8
    s.phase = .done ∧ 6 < k ∧ k ≤ 7 ∧ 13 < 2 * k ∧ 2 * k ≤ 14 := by decide

/-- A read in a running digest, and a refused read in FAULT. -/
theorem test_witness_reads_change_nothing :
    (after (transact ⟨.msg, .rd, 1, 127, 0⟩ inRound)).map (·.phase) = some .round ∧
    (after (transact ⟨.reg, .rd, 4, 0x010, 0⟩ fault1)).map (·.phase) = some .fault := by decide

theorem test_witness_window : windowOffset (platformAddress 4095) = some 4095 := by
  simp [windowOffset, platformAddress]

theorem test_witness_msg_writes :
    (0 < capacity idle ∧ 127 < capacity idle ∧ idle.phase ∈ [Phase.idle, .done, .fault]) ∧
    (0 % 4 = 0 ∧ 124 % 4 = 0 ∧ 124 + 4 ≤ capacity idle ∧ fault1.phase ∈ [Phase.idle, .done, .fault]) ∧
    (inRound.phase ∈ [Phase.load, .expand, .round, .addback, .format] ∧ 127 < capacity inRound ∧
      124 + 4 ≤ capacity inRound) := by decide

theorem test_witness_msg_read :
    (∀ c, msgByte idle c = (Memory.read idle.msg c).getD (Config.unwrittenByte idle.resets c)) ∧
    127 < capacity idle ∧ 124 % 4 = 0 ∧ 124 + 4 ≤ capacity idle :=
  ⟨fun c => by unfold msgByte; cases Memory.read idle.msg c <;> rfl, by decide⟩

theorem test_witness_word_write_order :
    Memory.wf idle.msg = true ∧ [3, 1, 0, 2].Perm [0, 1, 2, 3] := by decide

/-- i = 0 of two blocks, the last of two, the only one; the longest message. -/
theorem test_witness_length_words :
    (0 < nblocks 56 ∧ 0 + 1 < nblocks 56 ∧ 15 < 16) ∧ (1 < nblocks 56 ∧ 1 + 1 = nblocks 56 ∧ 56 < 2 ^ 61) ∧
    (0 + 1 = nblocks 55 ∧ 13 < 14 ∧ 64 * 0 + 56 ≤ 63 ∧ 63 < 64 * 0 + 64) ∧
    (2 ^ 55 + 1 = nblocks (2 ^ 61 - 1) ∧ 2 ^ 61 - 1 < 2 ^ 61) := by decide

theorem test_witness_sequencer_steps :
    (let s := at_ .load; s.phase = .load ∧ s.blk < s.n ∧ s.lenL ≤ capacity s) ∧
    ((at_ .expand).phase = .expand ∧ (at_ .expand).algL = .sha1) ∧
    (let s := { at_ .expand with algL := .sha224 }; s.phase = .expand ∧ s.algL ≠ .sha1) ∧
    (let s := { inRound with t := 79 }; s.phase = .round ∧ s.algL = .sha1 ∧ s.t < 80) ∧
    (let s := { inRound with algL := .sha256, t := 63 }; s.phase = .round ∧ s.algL ≠ .sha1 ∧ s.t < 64) ∧
    (let s := { at_ .addback with t := 80 }; s.phase = .addback ∧ s.t = roundCount s.algL ∧ s.blk < s.n) ∧
    (let s := { at_ .format with blk := 1 }; s.phase = .format ∧ s.blk = s.n) := by decide

/-- The sequencer's move answers in every phase. -/
theorem test_witness_sequencer_move :
    (∀ p ∈ [Phase.idle, .load, .round, .done, .fault], (after (sequencerMove (at_ p))).isSome = true) ∧
    (after (sequencerMove { at_ .addback with t := 80 })).isSome = true ∧
    (after (sequencerMove { at_ .format with blk := 1 })).isSome = true := by decide

theorem test_witness_reset_input : ({ inRound with turns := [.reset] } : State).turns = .reset :: [] := rfl

theorem test_witness_poll : ({ inRound with program := [waitDone] } : State).program =
    .poll 0x004 0x00000006 .nonzero :: [] := rfl

/-- Both tests of a POLL, passing in DONE and failing while BUSY: STATUS is 2 and 1 there (section 2.8). -/
theorem test_poll :
    (∀ t ∈ [PollTest.nonzero, .equals 2],
      (after (hostMove { done with program := [.poll 0x004 0x00000006 t] })).map (·.program) = some []) ∧
    (∀ t ∈ [PollTest.nonzero, .equals 2],
      (after (hostMove { inRound with program := [.poll 0x004 0x00000006 t] })).map (·.program) =
        some [.poll 0x004 0x00000006 t]) := by decide

/-- A DONE state of the invariant. -/
theorem test_witness_inv_done : Inv done :=
  inv_of_not_busy rfl
    (fun a h => by
      show a < 128
      by_contra hge
      simp [done, idle, Memory.read, Memory.unlisted, lookup, show ¬ 0 = a by omega, show ¬ 1 = a by omega,
        show ¬ 2 = a by omega] at h)
    rfl (by decide) (by decide) (by decide) (by decide) (by decide) rfl (fun _ => take_formatInto _ (by decide) _)

/-- A BUSY state of the invariant, reached by an accepted START of a message that fills the buffer. -/
theorem test_witness_inv_busy :
    Inv (beginDigest .sha256 (messageLength { done with lenLo := 128 }) { done with lenLo := 128 }) := by
  refine inv_beginDigest .sha256 ?_ (.inr rfl) (by decide)
  have h := test_witness_inv_done
  exact inv_of_not_busy h.memory h.inBuffer h.hostVars h.cause h.blockCount h.blockIndex h.roundCounter h.latchedLength
    rfl h.formatted

/-- A step from each of them answers. -/
theorem test_witness_inv_step :
    (after (step done)).isSome = true ∧
    (after (step (beginDigest .sha256 (messageLength { done with lenLo := 128 }) { done with lenLo := 128 }))).isSome =
      true := by decide

/-- A step that changes the HashState: by the sequencer, by a START, by a reset. -/
theorem test_witness_hash_state_writers :
    (after (step { inRound with phase := .addback, t := 80 })).map (fun u => u.H == inRound.H) = some false ∧
    (after (step { done with program := [cmdLine .startSha224] })).map (fun u => u.H == done.H) = some false ∧
    (after (step { done with turns := [.reset] })).map (fun u => u.H == done.H) = some false := by decide

/-- A BUSY state whose next step is the sequencer's, and one whose next step is a host read. -/
theorem test_witness_inputs_while_busy :
    nextTurn inRound = .sequencer ∧ (after (step inRound)).isSome = true ∧
    (let s := { inRound with turns := [.host], program := [rdLine 0x004 none] }
     nextTurn s = .host ∧ isBusy s.phase = true ∧ (after (step s)).isSome = true) := by decide

/-- A NOP and a read while BUSY. -/
theorem test_witness_busy_host :
    isBusy inRound.phase = true ∧ (regWr 0x000 0 inRound).map (·.phase) = some .round ∧
    (after (transact ⟨.msg, .rd, 4, 0, 0⟩ inRound)).map (·.phase) = some .round := by decide

/-- In DONE: a read, and a write of LEN. -/
theorem test_witness_stable_result :
    (after (step { done with program := [rdLine 0x040 (some 0)] })).map (·.phase) = some .done ∧
    (after (step { done with program := [wrLine 0x008 (.literal 9)] })).map (·.phase) = some .done := by decide

/-- A state ready for "abc", with the schedule left to the model's default. -/
theorem test_witness_ready : Ready [0x61, 0x62, 0x63] { idle with lenLo := 3 } ∧ ({ idle with lenLo := 3 } : State).turns = [] :=
  ⟨⟨.inl rfl, by decide, by decide, by decide⟩, rfl⟩

/-- Prepending a step to a run of a digest. -/
theorem digestRun_cons {s u v : State} (hb : isBusy s.phase = true) (hs : step s = .next u) (hf : u.phase ≠ .fault)
    (hi : u.phase ≠ .idle) (hr : DigestRun u v) : DigestRun s v := by
  induction hr with
  | start => exact .step (.start s) hb hs hf hi
  | step _ hb' hs' hf' hi' ih => exact .step ih hb' hs' hf' hi'

/-- A run that goes on for the given number of steps and ends in DONE. -/
def runsToDone : Nat → State → Bool
  | 0, s => s.phase == .done
  | k + 1, s =>
    isBusy s.phase &&
      match step s with
      | .next u => u.phase != .fault && u.phase != .idle && runsToDone k u
      | .fault _ => false
      | .refused _ => false

theorem digestRun_of_runsToDone {k : Nat} {s : State} (h : runsToDone k s = true) :
    ∃ u, DigestRun s u ∧ u.phase = .done := by
  induction k generalizing s with
  | zero => exact ⟨s, .start s, by simpa [runsToDone] using h⟩
  | succ k ih =>
    simp only [runsToDone, Bool.and_eq_true] at h
    obtain ⟨hb, h⟩ := h
    split at h
    · rename_i v hv
      simp only [Bool.and_eq_true, bne_iff_ne] at h
      obtain ⟨u, hu, hd⟩ := ih h.2
      exact ⟨u, digestRun_cons hb hv h.1.1 h.1.2 hu, hd⟩
    · cases h
    · cases h

/-- A run of the empty message under SHA-256 in which the host reads STATUS first: 69 steps, 68 of them the sequencer's
(section 1.3). The witness of the statements about whole digests. -/
theorem test_witness_digest_run :
    let s := { fresh with turns := [.host], program := [rdLine 0x004 none] }
    Ready [] s ∧ ∃ b u, exec (startCommand .sha256) s = .next b ∧ DigestRun b u ∧ u.phase = .done :=
  ⟨⟨.inl rfl, by decide, by decide, by decide⟩, _, (digestRun_of_runsToDone (k := 69) (by decide +kernel)).imp
    fun _ h => ⟨rfl, h⟩⟩

/-- From a state of the invariant that a SHA-1 digest left with t = 80, an accepted START of SHA-256: the LOAD it enters is
BUSY. -/
theorem test_witness_round_counter_in_load :
    let s := { done with lenLo := 0, program := [cmdLine .startSha256] }
    Inv s ∧ s.t = 80 ∧
    (after (step s)).map (fun u => (u.phase, u.algL, isBusy u.phase)) = some (.load, .sha256, true) := by
  refine ⟨?_, by decide, by decide⟩
  have h := test_witness_inv_done
  exact inv_of_not_busy h.memory h.inBuffer h.hostVars h.cause h.blockCount h.blockIndex h.roundCounter h.latchedLength
    rfl h.formatted

end Sys2Proof.Tests
end

section
/-! PROOFS. The rotations of 00_scope.md R10 and the word functions of the schedule and the rounds
(41_schedule_expander.md R120, R121; 42_sha1_compression.md R143; 43_sha2_compression.md R164, R165). -/

namespace Sys2Proof.Machine

/-- The two rotations are the same two shifts, joined in the other order (R10). -/
theorem rotl_eq_rotr_sub (x : Word) {k : Nat} (hk : k ≤ 32) : rotl x k = rotr x (32 - k) := by
  have hback : 32 - (32 - k) = k := Nat.sub_sub_self hk
  rw [rotl, rotr, hback, BitVec.or_comm]

/-- Settles O38: the rotation law is `rotl_eq_rotr_sub`; what is left are the rules' examples, evaluated. -/
theorem wordFunctionExamples : Obligations.WordFunctionExamples := by
  unfold Obligations.WordFunctionExamples
  refine ⟨fun x k _ hk => rotl_eq_rotr_sub x hk.le, ?_⟩
  decide

end Sys2Proof.Machine
end

section
/-! PROOFS. The state and its invariant (10_state.md R20-R37): the schedule, reset, STATUS, the sequencer's frame, what
writes the HashState, and the invariant of every step. -/

namespace Sys2Proof.Machine

/-! The schedule -/

/-- With no turn left, taking one changes nothing. -/
theorem dropTurn_of_nil {s : State} (h : s.turns = []) : dropTurn s = s := by
  cases s
  subst h
  rfl

/-- With a turn at the head of the schedule, a step is that owner's move on the state without it (R20, R63, R260). -/
theorem step_of_cons {s : State} {w : Turn} {rest : List Turn} (h : s.turns = w :: rest) :
    step s = move w { s with turns := rest } := by
  simp only [step, nextTurn, dropTurn, h, List.tail_cons]

/-- Past the schedule's end, a step is the default owner's move on the state as it is (R225). -/
theorem step_of_nil {s : State} (h : s.turns = []) :
    step s = move (if isBusy s.phase then .sequencer else .host) s := by
  simp only [step, nextTurn, dropTurn_of_nil h, h]

/-- The BUSY phases, as a list (R28). -/
theorem isBusy_iff_mem (p : Phase) : isBusy p = true ↔ p ∈ [Phase.load, .expand, .round, .addback, .format] := by
  cases p <;> decide

/-- The phases that are not BUSY, as a list (R28). -/
theorem not_isBusy_iff_mem (p : Phase) : isBusy p = false ↔ p ∈ [Phase.idle, .done, .fault] := by
  cases p <;> decide

/-- Settles O5: a turn at the head by `step_of_cons`, the schedule's end by `step_of_nil`. -/
theorem stepFollowsTheSchedule : Obligations.StepFollowsTheSchedule := by
  unfold Obligations.StepFollowsTheSchedule
  refine fun s rest => ⟨step_of_cons, step_of_cons, step_of_cons, fun h hp => ?_, fun h hp => ?_⟩
  · rw [step_of_nil h, (isBusy_iff_mem _).mpr hp]
    rfl
  · rw [step_of_nil h, (not_isBusy_iff_mem _).mpr hp]
    rfl

/-! STATUS -/

/-- In a BUSY phase only bit 0 is set (R28). -/
theorem statusWord_of_busy {s : State} (h : isBusy s.phase = true) : statusWord s = 1 := by
  obtain ⟨hd, hf⟩ : s.phase ≠ .done ∧ s.phase ≠ .fault := by
    constructor <;> intro hp <;> rw [hp] at h <;> cases h
  simp [statusWord, busyBit, doneBit, faultBit, causeField, h, hd, hf]

theorem statusWord_of_idle {s : State} (h : s.phase = .idle) : statusWord s = 0 := by
  simp [statusWord, busyBit, doneBit, faultBit, causeField, isBusy, h]

theorem statusWord_of_done {s : State} (h : s.phase = .done) : statusWord s = 2 := by
  simp [statusWord, busyBit, doneBit, faultBit, causeField, isBusy, h]

/-- In FAULT bit 2 is set and bits 10:8 hold the cause's code (R28, R29). -/
theorem statusWord_of_fault {s : State} (h : s.phase = .fault) :
    (statusWord s).toNat = 4 + 256 * (causeCode s.cause).toNat := by
  simp only [statusWord, busyBit, doneBit, faultBit, causeField, h]
  cases s.cause <;> decide

/-- A word read at a register's offset is that register's read (R32, R210). -/
theorem transact_read_reg (r : Reg) (d : Word) (s : State) :
    transact ⟨.reg, .rd, 4, regOffset r, d⟩ s = .next (regRead r (respond none s)) := by
  simp only [transact, regAccess, regAt_eq_some.mpr rfl, ne_eq, not_true_eq_false, if_false]

/-- Settles O20: the read answers `statusWord`, whose value is one of `statusWord_of_busy`, `_of_idle`, `_of_done` and
`_of_fault`. -/
theorem statusRead : Obligations.StatusRead := by
  unfold Obligations.StatusRead
  refine fun s d => ⟨statusWord s, transact_read_reg .status d s, ?_⟩
  cases hp : s.phase with
  | idle => simp [statusWord_of_idle hp]
  | done => simp [statusWord_of_done hp]
  | fault =>
    rw [statusWord_of_fault hp]
    cases s.cause <;> rfl
  | load | expand | round | addback | format =>
    simp [statusWord_of_busy (show isBusy s.phase = true by rw [hp]; rfl)]

/-! Reset -/

/-- Settles O47: STATUS by `statusWord_of_idle`, MSG because no byte is listed; the rest are the fields of `State.reset`. -/
theorem resetValues : Obligations.ResetValues := by
  unfold Obligations.ResetValues
  exact ⟨rfl, rfl, statusWord_of_idle rfl, rfl, rfl, fun a => Memory.read_eq [] a⟩

/-- The reset values of the core's registers meet the invariant, whatever the host side holds (R37). -/
theorem inv_resetCore {s : State} (h : rising s.vars = true) : Inv (resetCore s) :=
  inv_of_not_busy rfl nofun h (by simp) (Nat.le_refl 1) (Nat.zero_le 1) (Nat.zero_le 80) (Nat.zero_le _) rfl nofun

/-- Settles O50: IDLE is no BUSY phase, and the reset values are in the ranges of R21. -/
theorem invAtReset : Obligations.InvAtReset :=
  inv_of_not_busy rfl nofun rfl (by decide) (Nat.le_refl 1) (Nat.zero_le 1) (Nat.zero_le 80) (Nat.zero_le _) rfl nofun

/-! The sequencer's frame -/

/-- Settles O46: each outcome of `sequencerMove_cases` writes its own files, and the clauses on the others are of another
phase. -/
theorem sequencerFrame : Obligations.SequencerFrame := by
  unfold Obligations.SequencerFrame
  intro s u h
  obtain ⟨-, rfl⟩ | ⟨hp, -, -, rfl⟩ | ⟨hp, rfl⟩ | ⟨hp, -, rfl⟩ | ⟨hp, -, -, rfl⟩ | ⟨hp, -, rfl⟩ :=
    sequencerMove_cases h
  · simp
  · simp [afterLoad, hp]
  · simp [afterExpand, hp]
  · simp [afterRound, hp]
  · simp [afterAddback, hp]
  · simp [afterFormat, hp]

/-! The writers of the HashState -/

/-- The decoder reads a command from its own word only (R72, R73). -/
theorem eq_encode_of_decode {v : Word} {i : Instr} (h : decode v = .command i) : v = encode i := by
  have hlt := v.isLt
  apply BitVec.eq_of_toNat_eq
  rw [decode_eq_toNat] at h
  split_ifs at h <;> cases h <;> simp only [encode, commandWord, BitVec.reduceAppend, BitVec.reduceToNat] <;> omega

/-- A command that changes the HashState is an accepted START (R22, R202). -/
theorem exec_H_ne {i : Instr} {s u : State} (h : exec i s = .next u) (hH : u.H ≠ s.H) :
    (∃ g, startedBy i = some g) ∧ (s.phase = .idle ∨ s.phase = .done) ∧ u.phase = .load := by
  obtain ⟨-, rfl⟩ | ⟨-, rfl⟩ | ⟨g, hi, rfl⟩ := exec_cases h
  · exact absurd rfl hH
  · exact absurd rfl hH
  · obtain ⟨-, hu⟩ | ⟨-, hu⟩ | ⟨-, -, -, hu⟩ | ⟨hp, -, hu⟩ := start_cases g s <;> rw [hu] at hH ⊢
    · exact absurd rfl hH
    · exact absurd (raiseFault_H _ s) hH
    · exact absurd (raiseFault_H _ s) hH
    · exact ⟨⟨g, hi⟩, hp, rfl⟩

/-- A transaction that changes the HashState is the command of an accepted START (R22, R202). -/
theorem transact_H_ne {x : Transaction} {s u : State} (h : transact x s = .next u) (hH : u.H ≠ s.H) :
    (∃ i g, IsCommand x i ∧ startedBy i = some g) ∧ (s.phase = .idle ∨ s.phase = .done) ∧ u.phase = .load := by
  obtain ⟨v, d, -, rfl⟩ | ⟨c, r, d, -, -, rfl⟩ | ⟨i, hx, hi⟩ | ⟨-, -, -, -, rfl⟩ | ⟨-, -, -, -, rfl⟩ | ⟨-, -, -, -, rfl⟩ :=
    transact_cases h
  · exact absurd rfl hH
  · exact absurd (raiseFault_H c s) hH
  · obtain ⟨⟨g, hg⟩, hp, hu⟩ := exec_H_ne hi hH
    exact ⟨⟨i, g, hx, hg⟩, hp, hu⟩
  · exact absurd rfl hH
  · exact absurd rfl hH
  · exact absurd rfl hH

/-- A host line whose transaction is a command writes the word of that command to CMD (R70). -/
theorem commandOf_of_isCommand {s : State} {l : HostLine} {i : Instr} (h : IsCommand (lineTransaction s l) i) :
    commandOf s l = some (encode i) := by
  cases l with
  | access space dir width addr data bind =>
    obtain ⟨rfl, rfl, rfl, rfl, hd⟩ := h
    exact congrArg some (eq_encode_of_decode hd)
  | poll off mask test => cases h.2.1

/-- The words of the commands that start a digest (R75). -/
theorem encode_of_startedBy {i : Instr} {g : Alg} (h : startedBy i = some g) :
    some (encode i) ∈ [some (0x00000001 : Word), some 0x00000011, some 0x00000021] := by
  cases i with
  | nop | clear => cases h
  | startSha1 | startSha224 | startSha256 => decide

/-- A host move that changes the HashState issues an accepted START (R22, R202). -/
theorem hostMove_H_ne {s u : State} (h : hostMove s = .next u) (hH : u.H ≠ s.H) :
    (s.phase = .idle ∨ s.phase = .done) ∧ u.phase = .load ∧
      ∃ l rest, s.program = l :: rest ∧ commandOf s l ∈ [some 0x00000001, some 0x00000011, some 0x00000021] := by
  obtain ⟨-, rfl⟩ | ⟨l, rest, p, w, p', v', hprog, hw, rfl, -⟩ := hostMove_cases h
  · exact absurd rfl hH
  · obtain ⟨⟨i, g, hx, hg⟩, hp, hload⟩ := transact_H_ne hw hH
    exact ⟨hp, hload, l, rest, hprog, commandOf_of_isCommand hx ▸ encode_of_startedBy hg⟩

/-- Settles O53: the host by `hostMove_H_ne`, the sequencer by its frame. -/
theorem hashStateWriters : Obligations.HashStateWriters := by
  unfold Obligations.HashStateWriters
  intro s u h hH
  obtain ⟨ht, hm⟩ | ⟨ht, hm⟩ | ⟨ht, -⟩ := step_cases h
  · exact .inr (.inl ⟨ht, hostMove_H_ne (s := dropTurn s) hm hH⟩)
  · obtain ⟨-, hframe, -⟩ := sequencerFrame _ _ hm
    refine .inl ⟨ht, by_contra fun hp => hH (hframe hp).1⟩
  · exact .inr (.inr ht)

/-! The invariant under a host move -/

/-- The invariant outside the BUSY phases leaves LEN and MSG to the host, as long as MSG stays canonical and inside the
buffer (R30, R51). -/
theorem inv_writeInputs {s : State} (lo hi : Word) {m : Memory} (h : Inv s) (hb : isBusy s.phase = false)
    (hwf : Memory.wf m = true) (hin : ∀ a, (Memory.read m a).isSome = true → a < capacity s) :
    Inv { s with lenLo := lo, lenHi := hi, msg := m } :=
  inv_of_not_busy hwf hin h.hostVars h.cause h.blockCount h.blockIndex h.roundCounter h.latchedLength hb h.formatted

/-- A MSG store keeps the canonical form. -/
theorem wf_msgStore {m : Memory} (h : Memory.wf m = true) (width addr : Nat) (v : Word) :
    Memory.wf (msgStore width addr v m) = true := by
  unfold msgStore
  split
  · exact Memory.wf_write h _ _
  · exact Memory.wf_writeWord h _ _

/-- A legal MSG store writes inside the buffer only (R60, R211). -/
theorem read_msgStore_isSome {cap width addr : Nat} (hok : msgAccessOk cap width addr = true) {m : Memory} {v : Word}
    {a : Nat} (h : (Memory.read (msgStore width addr v m) a).isSome = true) :
    a < cap ∨ (Memory.read m a).isSome = true := by
  simp only [msgAccessOk, Bool.or_eq_true, Bool.and_eq_true, beq_iff_eq, decide_eq_true_eq] at hok
  obtain ⟨rfl, hlt⟩ | ⟨⟨rfl, -⟩, hle⟩ := hok
  · rw [show msgStore 1 addr v m = Memory.write m addr (v.setWidth 8) from rfl, Memory.read_write] at h
    split at h
    · left; omega
    · exact .inr h
  · rw [show msgStore 4 addr v m = Memory.writeWord m addr v from rfl, Memory.read_writeWord] at h
    split at h
    · left; omega
    · exact .inr h

theorem inv_answered {s : State} (r : Option Word) (d : Nat) (h : Inv s) : Inv (answered r d s) :=
  inv_congr r d s.turns s.program h

theorem inv_start {s : State} (g : Alg) (h : Inv s) : Inv (start g s) := by
  obtain ⟨-, hu⟩ | ⟨-, hu⟩ | ⟨-, -, -, hu⟩ | ⟨hp, hl, hu⟩ := start_cases g s <;> rw [hu]
  · exact h
  · exact inv_raiseFault nofun h
  · exact inv_raiseFault nofun h
  · exact inv_beginDigest g h hp hl

theorem inv_exec {i : Instr} {s u : State} (h : Inv s) (hu : exec i s = .next u) : Inv u := by
  obtain ⟨-, rfl⟩ | ⟨-, rfl⟩ | ⟨g, -, rfl⟩ := exec_cases hu
  · exact h
  · exact inv_leaveFault h
  · exact inv_start g h

theorem inv_transact {x : Transaction} {s u : State} (h : Inv s) (hu : transact x s = .next u) : Inv u := by
  have hr : Inv (respond none s) := inv_answered none s.draws h
  obtain ⟨v, d, -, rfl⟩ | ⟨c, r, d, hc, -, rfl⟩ | ⟨i, -, hi⟩ | ⟨hb, -, -, -, rfl⟩ | ⟨hb, -, -, -, rfl⟩ |
    ⟨hb, -, -, hok, rfl⟩ := transact_cases hu
  · exact inv_answered _ d h
  · exact inv_answered r d (inv_raiseFault hc h)
  · exact inv_exec hr hi
  · exact inv_writeInputs x.data s.lenHi hr hb hr.memory hr.inBuffer
  · exact inv_writeInputs s.lenLo x.data hr hb hr.memory hr.inBuffer
  · exact inv_writeInputs s.lenLo s.lenHi hr hb (wf_msgStore h.memory _ _ _) fun a ha =>
      (read_msgStore_isSome hok ha).elim id (h.inBuffer a)

theorem inv_hostMove {s u : State} (h : Inv s) (hu : hostMove s = .next u) : Inv u := by
  obtain ⟨-, rfl⟩ | ⟨l, rest, p, w, p', v', -, hw, rfl, hv⟩ := hostMove_cases hu
  · exact h
  · have hinv : Inv w := inv_transact (inv_congr s.rdata s.draws s.turns p h) hw
    refine inv_hostAt p' hinv ?_
    obtain rfl | ⟨x, d, rfl⟩ := hv
    · exact hinv.hostVars
    · exact rising_insert hinv.hostVars x d

/-! The invariant under the sequencer's move -/

theorem cause_none_of_busy {s : State} (h : Inv s) (hb : isBusy s.phase = true) : s.cause = .none := by
  refine h.cause.mpr fun hf => ?_
  rw [hf] at hb
  cases hb

/-- What R35 gives each BUSY phase: the index blk of the block in progress among n blocks, and the round counter t
against the round count R. -/
def BusyBounds (p : Phase) (blk n t R : Nat) : Prop :=
  match p with
  | .load => blk < n ∧ t ≤ R
  | .expand => blk < n ∧ t = 0
  | .round => blk < n ∧ t < R
  | .addback => blk < n ∧ t = R
  | .format => blk = n ∧ t = R
  | .idle | .done | .fault => False

/-- The bounds R35 gives in general (R21, R35). -/
theorem BusyBounds.general {p : Phase} {blk n t R : Nat} (h : BusyBounds p blk n t R) :
    p ≠ .fault ∧ p ≠ .done ∧ blk ≤ n ∧ t ≤ R := by
  cases p with
  | idle | done | fault => exact h.elim
  | load | expand | round | addback | format =>
    obtain ⟨hblk, ht⟩ := h
    exact ⟨nofun, nofun, by omega, by omega⟩

/-- From a BUSY state of the invariant, a state that differs in the sequencer's own fields and is within the bounds of its
BUSY phase meets the invariant. -/
theorem inv_of_busyBounds {s : State} {p : Phase} {t blk : Nat} {H work : Vector Word 8} {W : Vector Word 80}
    {buf : Vector HexChar 64} (h : Inv s) (hb : isBusy s.phase = true)
    (bounds : BusyBounds p blk s.n t (roundCount s.algL)) :
    Inv { s with phase := p, t := t, blk := blk, H := H, work := work, W := W, hexbuf := buf } :=
  have ⟨notFault, notDone, hblk, ht⟩ := bounds.general
  have hc := cause_none_of_busy h hb
  have at_ {q : Phase} (hq : p = q) : BusyBounds q blk s.n t (roundCount s.algL) := hq ▸ bounds
  { memory := h.memory
    inBuffer := h.inBuffer
    hostVars := h.hostVars
    cause := iff_of_true hc notFault
    blockCount := h.blockCount
    blockIndex := hblk
    roundCounter := ht.trans (roundCount_le _)
    latchedLength := h.latchedLength
    busyBlocks := fun _ => h.busyBlocks hb
    busyLength := fun _ => h.busyLength hb
    busyRound := fun _ => ht
    loadBlock := fun hq => (at_ hq).1
    expandBlock := fun hq => (at_ hq).1
    roundBlock := fun hq => (at_ hq).1
    addbackBlock := fun hq => (at_ hq).1
    formatBlock := fun hq => (at_ hq).1
    expandRound := fun hq => (at_ hq).2
    roundRound := fun hq => (at_ hq).2
    addbackRound := fun hq => (at_ hq).2
    formatRound := fun hq => (at_ hq).2
    formatted := fun hq => absurd hq notDone }

theorem roundCount_pos (g : Alg) : 0 < roundCount g := by cases g <;> decide

theorem inv_afterLoad {s : State} (h : Inv s) (hp : s.phase = .load) : Inv (afterLoad s) :=
  inv_of_busyBounds h (by rw [hp]; rfl) ⟨h.loadBlock hp, rfl⟩

theorem inv_afterExpand {s : State} (h : Inv s) (hp : s.phase = .expand) : Inv (afterExpand s) :=
  inv_of_busyBounds h (by rw [hp]; rfl) ⟨h.expandBlock hp, h.expandRound hp ▸ roundCount_pos _⟩

/-- The last round, t + 1 = R, goes to ADDBACK; the others stay below R. -/
theorem inv_afterRound {s : State} (h : Inv s) (hp : s.phase = .round) : Inv (afterRound s) := by
  have hlt := h.roundRound hp
  refine inv_of_busyBounds h (by rw [hp]; rfl) ?_
  split
  · exact ⟨h.roundBlock hp, ‹_›⟩
  · exact ⟨h.roundBlock hp, by omega⟩

/-- The last block, blk + 1 = n, goes to FORMAT; the others leave blk below n. -/
theorem inv_afterAddback {s : State} (h : Inv s) (hp : s.phase = .addback) : Inv (afterAddback s) := by
  have hlt := h.addbackBlock hp
  have ht := h.addbackRound hp
  refine inv_of_busyBounds h (by rw [hp]; rfl) ?_
  split
  · exact ⟨‹_›, ht⟩
  · exact ⟨by omega, ht.le⟩

/-- FORMAT leaves the BUSY phases, with the formatted HashState in the buffer (R193). -/
theorem inv_afterFormat {s : State} (h : Inv s) (hp : s.phase = .format) : Inv (afterFormat s) :=
  have hc := cause_none_of_busy h (by rw [hp]; rfl)
  inv_of_not_busy h.memory h.inBuffer h.hostVars (iff_of_true hc nofun) h.blockCount h.blockIndex h.roundCounter
    h.latchedLength rfl fun _ => take_formatInto s.H (outWords_le s.algL) s.hexbuf

theorem inv_sequencerMove {s u : State} (h : Inv s) (hu : sequencerMove s = .next u) : Inv u := by
  obtain ⟨-, rfl⟩ | ⟨hp, -, -, rfl⟩ | ⟨hp, rfl⟩ | ⟨hp, -, rfl⟩ | ⟨hp, -, -, rfl⟩ | ⟨hp, -, rfl⟩ :=
    sequencerMove_cases hu
  · exact h
  · exact inv_afterLoad h hp
  · exact inv_afterExpand h hp
  · exact inv_afterRound h hp
  · exact inv_afterAddback h hp
  · exact inv_afterFormat h hp

/-! The invariant under a step -/

/-- Settles O51: taking a turn keeps the invariant, and so does the move of each owner. -/
theorem stepKeepsInv : Obligations.StepKeepsInv := by
  unfold Obligations.StepKeepsInv
  intro s u h hu
  have hd : Inv (dropTurn s) := inv_congr s.rdata s.draws s.turns.tail s.program h
  obtain ⟨-, hm⟩ | ⟨-, hm⟩ | ⟨-, rfl⟩ := step_cases hu
  · exact inv_hostMove hd hm
  · exact inv_sequencerMove hd hm
  · exact inv_resetCore hd.hostVars

/-- Settles O60: the clause on t of the invariant the step leaves, with R written out. -/
theorem roundCounterBoundAlsoInLoad : Obligations.RoundCounterBoundAlsoInLoad := by
  unfold Obligations.RoundCounterBoundAlsoInLoad
  intro s u h hu hb
  have ht : u.t ≤ roundCount u.algL := (stepKeepsInv s u h hu).busyRound hb
  cases hg : u.algL <;> rw [hg] at ht <;> exact ht

end Sys2Proof.Machine
end


section
/-! PROOFS. The two host-visible spaces (20_memory.md R50-R61): the register window, what a refused access does, reads, the
lanes of a word write, and who writes the digest's inputs. -/

namespace Sys2Proof.Machine

/-! The register window -/

/-- Settles O28: an offset is an address's distance from REG_BASE, and the window ends at 4096. -/
theorem windowIsFourKilobytesFromBase : Obligations.WindowIsFourKilobytesFromBase := by
  unfold Obligations.WindowIsFourKilobytesFromBase windowOffset platformAddress
  refine ⟨fun off hoff => ?_, fun addr off h => ?_⟩
  · rw [if_pos (by omega), Nat.add_sub_cancel_left]
  · split at h
    · injection h with h
      omega
    · cases h

/-! Refused accesses -/

/-- The offsets R32 leaves unmapped hold no register. -/
theorem regAt_eq_none {off : Nat}
    (h : off % 4 ≠ 0 ∨ (0x010 ≤ off ∧ off ≤ 0x03C) ∨ (0x060 ≤ off ∧ off ≤ 0x07C) ∨ 0x0C0 ≤ off) : regAt off = none := by
  refine Option.eq_none_iff_forall_ne_some.mpr fun r hr => ?_
  have hoff : off = regOffset r := regAt_eq_some.mp hr
  cases r <;> simp only [regOffset] at hoff <;> omega

/-- A REG transaction of another width than 4, or at an offset with no register, is refused (R54, R210). -/
theorem transact_reg_refused {x : Transaction} (s : State) (hsp : x.space = .reg)
    (h : x.width ≠ 4 ∨ regAt x.addr = none) : transact x s = .next (badAccess x.dir (respond none s)) := by
  simp only [transact, hsp, regAccess]
  split
  · rfl
  · rw [h.resolve_left ‹_›]

/-- The accesses MSG refuses: neither a byte nor an aligned word inside the buffer (R60). -/
theorem msgAccessOk_eq_false {cap width addr : Nat} (hbyte : ¬ (width = 1 ∧ addr < cap))
    (hword : ¬ (width = 4 ∧ addr % 4 = 0 ∧ addr + 4 ≤ cap)) : msgAccessOk cap width addr = false := by
  simpa [msgAccessOk, and_assoc] using And.intro (not_and.mp hbyte) (not_and.mp hword)

/-- A MSG transaction in no legal form is refused (R60, R211, R212). -/
theorem transact_msg_refused {x : Transaction} {s : State} (hsp : x.space = .msg)
    (h : msgAccessOk (capacity s) x.width x.addr = false) :
    transact x s = .next (badAccess x.dir (respond none s)) := by
  have h' : msgAccessOk (capacity (respond none s)) x.width x.addr = false := h
  cases hd : x.dir <;> simp [transact, hsp, hd, msgAccess, msgRead, msgWrite, h']

/-- A refused access outside FAULT records BAD_ACCESS (R241) and in FAULT leaves the cause (R242); it answers a read with a
draw, and performs nothing else. -/
theorem badAccess_effect (dir : Dir) (s : State) :
    (s.phase ≠ .fault → dir = .wr →
      badAccess dir (respond none s) = { s with cause := .badAccess, phase := .fault, rdata := none }) ∧
    (s.phase ≠ .fault → dir = .rd → badAccess dir (respond none s) = { s with
      cause := .badAccess, phase := .fault, rdata := some (Config.freeWord s.draws), draws := s.draws + 1 }) ∧
    (s.phase = .fault → dir = .wr → badAccess dir (respond none s) = { s with rdata := none }) ∧
    (s.phase = .fault → dir = .rd →
      badAccess dir (respond none s) = { s with rdata := some (Config.freeWord s.draws), draws := s.draws + 1 }) := by
  have outside (h : s.phase ≠ .fault) := raiseFault_of_not_fault .badAccess (s := respond none s) h
  have inside (h : s.phase = .fault) := raiseFault_of_fault .badAccess (s := respond none s) h
  refine ⟨fun h hd => ?_, fun h hd => ?_, fun h hd => ?_, fun h hd => ?_⟩ <;> subst hd
  · rw [badAccess_wr, outside h]; rfl
  · rw [badAccess_rd, outside h]; rfl
  · rw [badAccess_wr, inside h]; rfl
  · rw [badAccess_rd, inside h]; rfl

/-- Settles O13: the transaction is refused, by its width or because no register stands at its offset. -/
theorem illegalRegAccessFaults : Obligations.IllegalRegAccessFaults := by
  unfold Obligations.IllegalRegAccessFaults
  intro x s hsp h
  rw [transact_reg_refused s hsp (h.imp_right regAt_eq_none)]
  simpa only [Host.Outcome.next.injEq] using badAccess_effect x.dir s

/-- Settles O14: the transaction is refused, BUSY or not, because its form is checked first. -/
theorem illegalMsgAccessFaults : Obligations.IllegalMsgAccessFaults := by
  unfold Obligations.IllegalMsgAccessFaults
  intro x s hsp hbyte hword
  rw [transact_msg_refused hsp (msgAccessOk_eq_false hbyte hword)]
  simpa only [Host.Outcome.next.injEq] using badAccess_effect x.dir s

/-! Reads -/

/-- A read is answered, by a value or by a fault and a value (R61, R241). -/
theorem transact_read_cases {x : Transaction} {s u : State} (hd : x.dir = .rd) (h : transact x s = .next u) :
    (∃ v d, u = answered (some v) d s) ∨ (∃ c v d, u = answered (some v) d (raiseFault c s)) := by
  obtain ⟨v, d, -, rfl⟩ | ⟨c, r, d, -, hr, rfl⟩ | ⟨i, hx, -⟩ | ⟨-, -, hw, -⟩ | ⟨-, -, hw, -⟩ | ⟨-, -, hw, -⟩ :=
    transact_cases h
  · exact .inl ⟨v, d, rfl⟩
  · obtain ⟨v, rfl⟩ := Option.isSome_iff_exists.mp (hr hd)
    exact .inr ⟨c, v, d, rfl⟩
  · obtain ⟨-, hw, -⟩ := hx
    cases hd.symm.trans hw
  all_goals cases hd.symm.trans hw

/-- Settles O27: a read that leaves FAULT unentered raised no fault, or raised it in FAULT, where it does nothing. -/
theorem readsChangeNothing : Obligations.ReadsChangeNothing := by
  unfold Obligations.ReadsChangeNothing
  intro x s u hd h hf
  obtain ⟨v, d, rfl⟩ | ⟨c, v, d, rfl⟩ := transact_read_cases hd h
  · exact ⟨rfl, rfl⟩
  · rw [raiseFault_of_fault c (hf (raiseFault_phase c s))]
    exact ⟨rfl, rfl⟩

/-! The lanes of a word write -/

/-- Writes of different keys commute: each finds its place by comparing its own key with those in the list. -/
theorem insert_comm {β : Type} {a c : Nat} (h : a ≠ c) (b d : β) (m : List (Nat × β)) :
    insert (insert m a b) c d = insert (insert m c d) a b := by
  induction m with
  | nil => grind [insert]
  | cons x m ih => grind [insert]

theorem byteOfWord_eq_extractLsb' (v : Word) (i : Nat) : v.extractLsb' (24 - 8 * i) 8 = byteOfWord v i := by
  apply BitVec.eq_of_toNat_eq
  simp [byteOfWord]

/-- Settles O33: the word write is the four lane writes in rising order, and the writes of two lanes commute. -/
theorem wordWriteIsFourByteWritesInAnyOrder : Obligations.WordWriteIsFourByteWritesInAnyOrder := by
  unfold Obligations.WordWriteIsFourByteWritesInAnyOrder
  intro m a v order _ hperm
  simp only [byteOfWord_eq_extractLsb']
  have lanesCommute : ∀ i ∈ order, ∀ j ∈ order, ∀ m : Memory,
      ((m.write (a + i) (byteOfWord v i)).write (a + j) (byteOfWord v j)) =
        ((m.write (a + j) (byteOfWord v j)).write (a + i) (byteOfWord v i)) := by
    intro i _ j _ m
    by_cases hij : i = j
    · rw [hij]
    · exact insert_comm (by omega) _ _ m
  exact hperm.foldl_eq' lanesCommute m

/-! The digest's inputs -/

/-- MSG_CAP, MSG and LEN are as before: what the core may rely on while it computes a digest (R7, R30, R51). -/
def KeepsInputs (s u : State) : Prop := u.msgCap = s.msgCap ∧ u.msg = s.msg ∧ u.lenLo = s.lenLo ∧ u.lenHi = s.lenHi

theorem keepsInputs_raiseFault (c : Cause) (s : State) : KeepsInputs s (raiseFault c s) := by
  simp [KeepsInputs]

/-- No command writes an input (R201-R203). -/
theorem keepsInputs_exec {i : Instr} {s u : State} (h : exec i s = .next u) : KeepsInputs s u := by
  obtain ⟨-, rfl⟩ | ⟨-, rfl⟩ | ⟨g, -, rfl⟩ := exec_cases h
  · exact ⟨rfl, rfl, rfl, rfl⟩
  · exact ⟨rfl, rfl, rfl, rfl⟩
  · obtain ⟨-, hu⟩ | ⟨-, hu⟩ | ⟨-, -, -, hu⟩ | ⟨-, -, hu⟩ := start_cases g s <;> rw [hu]
    · exact ⟨rfl, rfl, rfl, rfl⟩
    · exact keepsInputs_raiseFault _ s
    · exact keepsInputs_raiseFault _ s
    · exact ⟨rfl, rfl, rfl, rfl⟩

/-- A transaction keeps the inputs, or it is outside the BUSY phases and keeps MSG_CAP (R204, R211). -/
theorem transact_inputs {x : Transaction} {s u : State} (h : transact x s = .next u) :
    KeepsInputs s u ∨ (isBusy s.phase = false ∧ u.msgCap = s.msgCap) := by
  obtain ⟨v, d, -, rfl⟩ | ⟨c, r, d, -, -, rfl⟩ | ⟨i, -, hi⟩ | ⟨hb, -, -, -, rfl⟩ | ⟨hb, -, -, -, rfl⟩ |
    ⟨hb, -, -, -, rfl⟩ := transact_cases h
  · exact .inl ⟨rfl, rfl, rfl, rfl⟩
  · exact .inl (keepsInputs_raiseFault c s)
  · exact .inl (show KeepsInputs (respond none s) u from keepsInputs_exec hi)
  · exact .inr ⟨hb, rfl⟩
  · exact .inr ⟨hb, rfl⟩
  · exact .inr ⟨hb, rfl⟩

/-- A host move does to the inputs what its transaction does. -/
theorem hostMove_inputs {s u : State} (h : hostMove s = .next u) :
    KeepsInputs s u ∨ (isBusy s.phase = false ∧ u.msgCap = s.msgCap) := by
  obtain ⟨-, rfl⟩ | ⟨l, rest, p, w, p', v', -, hw, rfl, -⟩ := hostMove_cases h
  · exact .inl ⟨rfl, rfl, rfl, rfl⟩
  · exact (transact_inputs hw :)

/-- No operation of the sequencer writes an input (R78). -/
theorem keepsInputs_sequencerMove {s u : State} (h : sequencerMove s = .next u) : KeepsInputs s u := by
  obtain ⟨hframe, -⟩ := sequencerFrame s u h
  rw [hframe]
  exact ⟨rfl, rfl, rfl, rfl⟩

/-- Settles O54: taking a turn writes no input; the sequencer never does, and the host only outside the BUSY phases. -/
theorem inputsBelongToTheCoreWhileBusy : Obligations.InputsBelongToTheCoreWhileBusy := by
  unfold Obligations.InputsBelongToTheCoreWhileBusy
  intro s u h
  have kept (hk : KeepsInputs (dropTurn s) u) : u.msgCap = s.msgCap ∧
      ((∀ a, Memory.read u.msg a = Memory.read s.msg a) ∧ u.lenLo = s.lenLo ∧ u.lenHi = s.lenHi) := by
    obtain ⟨hcap, hmsg, hlo, hhi⟩ := hk
    exact ⟨hcap, fun a => congrArg (Memory.read · a) hmsg, hlo, hhi⟩
  obtain ⟨ht, hm⟩ | ⟨-, hm⟩ | ⟨ht, rfl⟩ := step_cases h
  · obtain hk | ⟨hb, hcap⟩ := hostMove_inputs hm
    · exact ⟨(kept hk).1, fun _ => (kept hk).2⟩
    · refine ⟨hcap, fun hturn => ?_⟩
      have hb' : isBusy s.phase = false := hb
      simp [ht, hb'] at hturn
  · have hk := kept (keepsInputs_sequencerMove hm)
    exact ⟨hk.1, fun _ => hk.2⟩
  · exact ⟨rfl, fun hturn => by simp [ht] at hturn⟩

end Sys2Proof.Machine
end

section
/-! PROOFS. The command encoding and the step that runs it (30_encoding.md R70-R80): the decoder on all words, a CMD write,
and the two kinds of host line. -/

namespace Sys2Proof.Machine

/-! The decoder and the encoder -/

/-- The decoder reads each command from the word the encoder gives it (R72, R75). -/
theorem decode_encode (i : Instr) : decode (encode i) = .command i := by
  cases i <;> decide

/-- Settles O3: from the decoder to the encoder by `eq_encode_of_decode`, back by `decode_encode`. -/
theorem decodeAndEncodeAgree : Obligations.DecodeAndEncodeAgree := by
  unfold Obligations.DecodeAndEncodeAgree
  exact fun i v => ⟨eq_encode_of_decode, fun h => h ▸ decode_encode i⟩

/-- The reserved-ALG word is START with ALG 3, 0x31 (R76 d). -/
theorem decode_eq_startReservedAlg {v : Word} : decode v = .startReservedAlg ↔ v = 0x00000031 := by
  constructor
  · intro h
    have hlt := v.isLt
    rw [decode_eq_toNat] at h
    apply BitVec.eq_of_toNat_eq
    split_ifs at h
    simp only [BitVec.reduceToNat]
    omega
  · rintro rfl
    decide

/-- The decoder answers ILLEGAL exactly when neither of its other two answers holds (R73). -/
theorem decode_eq_illegal {v : Word} :
    decode v = .illegal ↔ (∀ i, v ≠ encode i) ∧ v ≠ 0x00000031 := by
  rw [← decode_eq_startReservedAlg.ne]
  simp only [ne_eq, ← decodeAndEncodeAgree _ v]
  cases decode v <;> simp

/-- The rows of R75 pair each command with its encoding. -/
theorem mem_tableRows {v : Word} {i : Instr} :
    (v, i) ∈ [((0x00000000 : Word), Instr.nop), (0x00000001, .startSha1), (0x00000011, .startSha224),
      (0x00000021, .startSha256), (0x00000002, .clear)] ↔ v = encode i := by
  cases i <;> simp [encode, commandWord]

/-- A word is none of the six words of R75 and R76 d exactly when it encodes no command and is not 0x31. -/
theorem not_mem_tableWords {v : Word} :
    v ∉ [(0x00000000 : Word), 0x00000001, 0x00000011, 0x00000021, 0x00000002, 0x00000031] ↔
      (∀ i, v ≠ encode i) ∧ v ≠ 0x00000031 := by
  constructor
  · intro h
    refine ⟨fun i hi => h ?_, fun hv => h ?_⟩
    · subst hi
      cases i <;> decide
    · subst hv
      decide
  · rintro ⟨hcmd, hres⟩ h
    simp only [List.mem_cons, List.not_mem_nil, or_false] at h
    obtain h | h | h | h | h | h := h
    · exact hcmd .nop h
    · exact hcmd .startSha1 h
    · exact hcmd .startSha224 h
    · exact hcmd .startSha256 h
    · exact hcmd .clear h
    · exact hres h

/-- Settles O2: the commands by O3, the reserved-ALG word by `decode_eq_startReservedAlg`, and ILLEGAL is what is left. -/
theorem decodeAcceptsExactlyTheFiveWords : Obligations.DecodeAcceptsExactlyTheFiveWords := by
  unfold Obligations.DecodeAcceptsExactlyTheFiveWords
  exact fun v => ⟨fun i => (decodeAndEncodeAgree i v).trans mem_tableRows.symm, decode_eq_startReservedAlg,
    decode_eq_illegal.trans not_mem_tableWords.symm⟩

/-- Settles O1: nine concrete words, evaluated. -/
theorem tableWordsDecode : Obligations.TableWordsDecode := by
  unfold Obligations.TableWordsDecode
  decide

/-! A CMD write -/

/-- A word write at CMD is CmdWrite, once what the previous transaction returned is gone (R70, R200). -/
theorem transact_write_cmd (v : Word) (s : State) : transact ⟨.reg, .wr, 4, 0x000, v⟩ s = cmdWrite v (respond none s) :=
  rfl

/-- A CMD write of a command's word runs the command (R73, R200). -/
theorem cmdWrite_of_command {v : Word} {i : Instr} (h : decode v = .command i) (s : State) : cmdWrite v s = exec i s := by
  simp only [cmdWrite, h]

/-- A CMD write of a reserved word raises its fault (R76). -/
theorem cmdWrite_of_illegal {v : Word} (h : decode v = .illegal) (s : State) :
    cmdWrite v s = .next (raiseFault .illegalCommand s) := by
  simp only [cmdWrite, h]

/-- A CMD write of the reserved-ALG word raises its fault (R76 d). -/
theorem cmdWrite_of_startReservedAlg {v : Word} (h : decode v = .startReservedAlg) (s : State) :
    cmdWrite v s = .next (raiseFault .malformedParameterSet s) := by
  simp only [cmdWrite, h]

/-- The three classes of R76 a, b and c are ILLEGAL. -/
theorem decode_eq_illegal_of_field {v : Word}
    (h : 64 ≤ v.toNat ∨ 3 ≤ v.toNat % 16 ∨ (v.toNat % 16 ≠ 1 ∧ v.toNat / 16 % 4 ≠ 0)) : decode v = .illegal := by
  refine decode_eq_illegal.mpr ⟨fun i hi => ?_, fun hv => ?_⟩
  · subst hi
    cases i <;> revert h <;> decide
  · subst hv
    revert h
    decide

/-- Settles O15: the word is decoded as reserved, and outside FAULT its fault is recorded and nothing else changes. -/
theorem reservedWordsFault : Obligations.ReservedWordsFault := by
  unfold Obligations.ReservedWordsFault
  intro v s hp
  have raised (c : Cause) : raiseFault c (respond none s) = { s with cause := c, phase := .fault, rdata := none } :=
    raiseFault_of_not_fault c (s := respond none s) hp
  refine ⟨fun h => ?_, fun h => ?_⟩ <;> rw [transact_write_cmd]
  · rw [cmdWrite_of_illegal (decode_eq_illegal_of_field h), raised]
  · rw [cmdWrite_of_startReservedAlg (decode_eq_startReservedAlg.mpr h), raised]

/-! An access line -/

/-- When the host is next, a step is its move on the state with the turn taken (R20, R225). -/
theorem step_of_host {s : State} (h : nextTurn s = .host) : step s = hostMove (dropTurn s) := by
  simp only [step, h, move]

/-- A host move with an access line first issues its transaction and binds what it returned (R79). -/
theorem hostMove_access {s : State} {space : Space} {dir : Dir} {width addr : Nat} {data : DataOperand} {bind : Option Nat}
    {rest : List HostLine} (h : s.program = .access space dir width addr data bind :: rest) :
    hostMove s = onNext (transact ⟨space, dir, width, addr, operandValue s data⟩ { s with program := rest })
      fun w => .next (bindResponse bind w) := by
  simp only [hostMove, h]

/-- Taking a turn leaves what a data operand names (R79). -/
theorem operandValue_dropTurn (s : State) (data : DataOperand) : operandValue (dropTurn s) data = operandValue s data := by
  cases data <;> rfl

/-- Binding the response leaves the rest of the state (R79). -/
theorem bindResponse_frame (bind : Option Nat) (s : State) :
    bindResponse bind s = { s with vars := (bindResponse bind s).vars } := by
  obtain h | ⟨x, v, h⟩ := bindResponse_cases bind s
  · rw [h]
  · rw [h]
    rfl

/-- Without a variable to bind, or a value, nothing is bound (R79). -/
theorem bindResponse_of_none {bind : Option Nat} {s : State} (h : bind = none ∨ s.rdata = none) :
    bindResponse bind s = s := by
  obtain h | h := h
  · simp only [h, bindResponse]
  · cases bind <;> simp only [h, bindResponse]

/-- The variable a line binds takes the value returned; the others keep theirs (R79). -/
theorem lookup_bindResponse {s : State} {v : Word} (x y : Nat) (h : s.rdata = some v) :
    lookup (bindResponse (some x) s).vars y = if y = x then some v else lookup s.vars y := by
  simp only [bindResponse, h, lookup_insert]

/-- No command writes the response (R201-R203). -/
theorem exec_rdata {i : Instr} {s u : State} (h : exec i s = .next u) : u.rdata = s.rdata := by
  obtain ⟨-, rfl⟩ | ⟨-, rfl⟩ | ⟨g, -, rfl⟩ := exec_cases h
  · rfl
  · rfl
  · obtain ⟨-, hu⟩ | ⟨-, hu⟩ | ⟨-, -, -, hu⟩ | ⟨-, -, hu⟩ := start_cases g s <;> rw [hu]
    · exact raiseFault_rdata _ s
    · exact raiseFault_rdata _ s
    · rfl

/-- A step with an access line next: its transaction on the state with the turn and the line taken, then the binding
(R70, R79). -/
theorem step_access {s : State} {space : Space} {dir : Dir} {width addr : Nat} {data : DataOperand} {bind : Option Nat}
    {rest : List HostLine} (ht : nextTurn s = .host) (h : s.program = .access space dir width addr data bind :: rest)
    {w : State} (hw : transact ⟨space, dir, width, addr, operandValue s data⟩
      { s with turns := s.turns.tail, program := rest } = .next w) :
    step s = .next (bindResponse bind w) := by
  rw [step_of_host ht, hostMove_access (s := dropTurn s) h, operandValue_dropTurn]
  exact onNext_eq_next.mpr ⟨w, hw, rfl⟩

/-- Settles O4: the transaction answers, by `transact_next`; the binding is `lookup_bindResponse` or nothing. A command
returns no value, so after one nothing is bound. -/
theorem stepRunsDecodedCommand : Obligations.StepRunsDecodedCommand := by
  unfold Obligations.StepRunsDecodedCommand
  intro s space dir width addr data bind rest ht hprog
  obtain ⟨w, hw⟩ := transact_next ⟨space, dir, width, addr, operandValue s data⟩
    { s with turns := s.turns.tail, program := rest }
  have hstep := step_access ht hprog hw
  refine ⟨⟨w, bindResponse bind w, hw, hstep, bindResponse_frame bind w, ?_, ?_⟩, ?_, ?_, ?_⟩
  · rintro x v rfl hv
    exact ⟨by rw [lookup_bindResponse x x hv, if_pos rfl], fun y hy => by rw [lookup_bindResponse x y hv, if_neg hy]⟩
  · exact fun h => congrArg State.vars (bindResponse_of_none h)
  · rintro v rfl
    rfl
  · rintro x v rfl hx
    simp only [operandValue, hx, Option.getD_some]
  · rintro i rfl rfl rfl rfl hi
    rw [transact_write_cmd, cmdWrite_of_command hi] at hw
    rw [hstep, bindResponse_of_none (.inr (exec_rdata hw)), ← hw]
    rfl

/-! A POLL line -/

/-- A host move with a POLL first reads its register, and takes the line when the test holds (R80). -/
theorem hostMove_poll {s w : State} {off : Nat} {mask v : Word} {test : PollTest} {rest : List HostLine}
    (h : s.program = .poll off mask test :: rest) (hw : transact ⟨.reg, .rd, 4, off, 0⟩ s = .next w)
    (hv : w.rdata = some v) :
    hostMove s = .next (if pollHolds mask test v then { w with program := rest } else w) := by
  simp only [hostMove, h, hw, onNext, hv, Option.map_some, Option.getD_some]

/-- A read returns a value, whether or not it faults (R54, R61). -/
theorem rdata_of_read {x : Transaction} {s u : State} (hd : x.dir = .rd) (h : transact x s = .next u) :
    ∃ v, u.rdata = some v := by
  obtain ⟨v, d, rfl⟩ | ⟨c, v, d, rfl⟩ := transact_read_cases hd h <;> exact ⟨v, rfl⟩

/-- Settles O49: the read answers a value, and `pollHolds` is the test R80 writes for each kind of POLL. -/
theorem pollRepeatsUntilItsTest : Obligations.PollRepeatsUntilItsTest := by
  unfold Obligations.PollRepeatsUntilItsTest
  intro s off mask test rest hprog
  obtain ⟨w, hw⟩ := transact_next ⟨.reg, .rd, 4, off, 0⟩ s
  obtain ⟨v, hv⟩ := rdata_of_read rfl hw
  refine ⟨w, v, _, hw, hv, hostMove_poll hprog hw hv, ?_, ?_⟩
  · rintro val rfl
    exact ⟨fun h => if_pos (beq_iff_eq.mpr h), fun h => if_neg (mt beq_iff_eq.mp h)⟩
  · rintro rfl
    exact ⟨fun h => if_pos (bne_iff_ne.mpr h), fun h => if_neg fun hne => bne_iff_ne.mp hne h⟩

end Sys2Proof.Machine
end

section
/-! PROOFS. The Padder and the Block Partitioner (40_padder_partitioner.md R100-R108): the block count, the padded view, the
words of a block, and LOAD. -/

namespace Sys2Proof.Machine

/-! The block count -/

/-- The block count is the least n with room for the message, the byte 0x80 and the eight length bytes (R102). -/
theorem nblocks_bounds (L : Nat) : L + 9 ≤ 64 * nblocks L ∧ 64 * nblocks L ≤ L + 72 := by
  unfold nblocks
  omega

/-- The same two bounds over the rationals, where R102 writes its formula. -/
theorem nblocks_bounds_cast (L : Nat) : (L : ℚ) + 9 ≤ 64 * nblocks L ∧ 64 * (nblocks L : ℚ) ≤ L + 72 := by
  exact_mod_cast nblocks_bounds L

/-- R102's ceiling, brought to one fraction. -/
theorem nblocks_eq_ceil (L : Nat) : (nblocks L : Int) = ⌈((L : ℚ) + 9) / 64⌉ := by
  obtain ⟨hroom, hleast⟩ := nblocks_bounds_cast L
  refine (Int.ceil_eq_iff.mpr ⟨?_, ?_⟩).symm <;> rw [Int.cast_natCast] <;> linarith

/-- Passing from the ceiling to a floor takes one from the numerator, because L is a whole number (R102). -/
theorem nblocks_eq_floor (L : Nat) : (nblocks L : Int) = ⌊((L : ℚ) + 8) / 64⌋ + 1 := by
  obtain ⟨hroom, hleast⟩ := nblocks_bounds_cast L
  refine eq_add_of_sub_eq (Int.floor_eq_iff.mpr ⟨?_, ?_⟩).symm <;> push_cast <;> linarith

/-- Settles O34: the source's formula is `nblocks_eq_ceil` with its fractions joined; the corner values are evaluated. -/
theorem blockCountFormula : Obligations.BlockCountFormula := by
  unfold Obligations.BlockCountFormula
  refine ⟨fun L => ⟨?_, nblocks_eq_ceil L, nblocks_eq_floor L, ?_⟩, by decide⟩
  · have hjoin : (((L : ℚ) + 1) / 4 + 2) / 16 = ((L : ℚ) + 9) / 64 := by ring
    rw [hjoin, nblocks_eq_ceil]
  · obtain ⟨hroom, -⟩ := nblocks_bounds L
    omega

/-! The padded view -/

theorem paddedByte_of_lt (byte : Nat → Byte) {L q : Nat} (h : q < L) : paddedByte byte L q = byte q := if_pos h

theorem paddedByte_length (byte : Nat → Byte) (L : Nat) : paddedByte byte L L = 0x80 := by
  simp [paddedByte]

theorem paddedByte_of_gt (byte : Nat → Byte) {L q : Nat} (h : L < q) : paddedByte byte L q = 0 := by
  simp [paddedByte, h.not_gt, h.ne']

/-- Settles O35: both parts by where q stands against the message's length. -/
theorem paddedViewIsPadThenZeros : Obligations.PaddedViewIsPadThenZeros := by
  unfold Obligations.PaddedViewIsPadThenZeros
  intro M q
  obtain h | rfl | h := lt_trichotomy q M.length
  · refine ⟨?_, fun byte byte' hagree => ?_⟩
    · rw [paddedByte_of_lt _ h, pad, List.getD_append _ _ _ _ h]
    · rw [paddedByte_of_lt _ h, paddedByte_of_lt _ h, hagree q h]
  · refine ⟨?_, fun byte byte' _ => ?_⟩
    · rw [paddedByte_length, pad, List.getD_append_right _ _ _ _ le_rfl, Nat.sub_self, List.getD_cons_zero]
    · rw [paddedByte_length, paddedByte_length]
  · refine ⟨?_, fun byte byte' _ => ?_⟩
    · rw [paddedByte_of_gt _ h, pad, List.getD_eq_default _ _ (by simpa using h)]
    · rw [paddedByte_of_gt _ h, paddedByte_of_gt _ h]

/-! The words of a block -/

/-- Outside words 14 and 15 of the final block, a word is its four padded bytes (R103, R104). -/
theorem blockWord_eq_packedWord (byte : Nat → Byte) (L : Nat) {n i j : Nat} (h : i + 1 < n ∨ j < 14) :
    blockWord byte L n i j = packedWord byte L (64 * i + 4 * j) := by
  rw [blockWord, if_neg (by omega), if_neg (by omega)]

/-- In the final block words 14 and 15 are the high and the low half of the bit length, which fits them (R103, R108). -/
theorem lengthWords_toNat (byte : Nat → Byte) {L n i : Nat} (hi : i + 1 = n) (hL : L < 2 ^ 61) :
    (blockWord byte L n i 14).toNat * 2 ^ 32 + (blockWord byte L n i 15).toNat = 8 * L := by
  have hhigh : blockWord byte L n i 14 = BitVec.ofNat 32 (8 * L / 2 ^ 32) := if_pos ⟨hi, rfl⟩
  have hlow : blockWord byte L n i 15 = BitVec.ofNat 32 (8 * L % 2 ^ 32) := by simp [blockWord, hi]
  rw [hhigh, hlow, BitVec.toNat_ofNat, BitVec.toNat_ofNat]
  omega

/-- Settles O36: the eight bytes the length words replace stand past the byte 0x80, because the block count leaves room for
them (`nblocks_bounds`, R105). -/
theorem lengthWordsOnlyInFinalBlock : Obligations.LengthWordsOnlyInFinalBlock := by
  unfold Obligations.LengthWordsOnlyInFinalBlock
  intro byte L i j _ _
  refine ⟨blockWord_eq_packedWord byte L, lengthWords_toNat byte, fun hlast q hq _ => paddedByte_of_gt byte ?_⟩
  obtain ⟨hroom, -⟩ := nblocks_bounds L
  omega

/-! LOAD -/

/-- Outside the file there is no entry, so every file of a size reads alike there. -/
theorem wordAt_of_ge {size : Nat} (v : Vector Word size) {i : Nat} (h : size ≤ i) : wordAt v i = 0 := by
  simp [wordAt, h]

/-- LOAD writes W[0..15] only (R106). -/
theorem wordAt_loadBlock_of_ge (B : Vector Word 16) (W : Vector Word 80) {j : Nat} (h : 16 ≤ j) :
    wordAt (loadBlock B W) j = wordAt W j := by
  obtain hj | hj := Nat.lt_or_ge j 80
  · rw [wordAt_loadBlock B W hj, if_neg h.not_gt]
  · rw [wordAt_of_ge _ hj, wordAt_of_ge _ hj]

/-- LOAD writes work[0..S-1] only (R106). -/
theorem wordAt_copyState_of_ge {size : Nat} (H work : Vector Word 8) {j : Nat} (h : size ≤ j) :
    wordAt (copyState size H work) j = wordAt work j := by
  obtain hj | hj := Nat.lt_or_ge j 8
  · rw [wordAt_copyState size H work hj, if_neg h.not_gt]
  · rw [wordAt_of_ge _ hj, wordAt_of_ge _ hj]

/-- With its bounds met, the sequencer's move in LOAD is the LOAD operation (R106, R221). -/
theorem sequencerMove_load {s : State} (hp : s.phase = .load) (hblk : s.blk < s.n) (hlen : s.lenL ≤ capacity s) :
    sequencerMove s = .next (afterLoad s) := by
  simp only [sequencerMove, hp]
  rw [seqLoad_eq, if_pos ⟨hblk, hlen⟩]

/-- Settles O37: the move is `sequencerMove_load`; the entries of the two files it writes are those of `loadBlock` and
`copyState`. -/
theorem loadStep : Obligations.LoadStep := by
  unfold Obligations.LoadStep
  intro s S hS hp hblk hlen
  have hsize : S = stateWords s.algL := hS
  subst hsize
  refine ⟨_, _, sequencerMove_load hp hblk hlen, fun j hj => ?_, fun j hj => wordAt_loadBlock_of_ge _ _ hj, fun j hj => ?_,
    fun j hj => wordAt_copyState_of_ge _ _ hj⟩
  · rw [wordAt_loadBlock _ _ (by omega), if_pos hj, wordAt_block _ _ _ _ hj]
  · rw [wordAt_copyState _ _ _ (hj.trans_le (stateWords_le _)), if_pos hj]

end Sys2Proof.Machine
end

section
/-! PROOFS. The Message Schedule Expander (41_schedule_expander.md R122-R125): each entry of an expansion satisfies the
recurrence in the entries of the finished schedule, and EXPAND. -/

namespace Sys2Proof.Machine

/-! The recurrence -/

/-- A recurrence reads only entries before the one it defines (R124). -/
def ReadsBelow (entry : Vector Word 80 → Nat → Word) : Prop :=
  ∀ {V W : Vector Word 80} {i : Nat}, 16 ≤ i → (∀ j < i, wordAt V j = wordAt W j) → entry V i = entry W i

/-- The SHA-1 recurrence reads entries i-3, i-8, i-14 and i-16 (R122). -/
theorem readsBelow_sched1Entry : ReadsBelow sched1Entry := by
  intro V W i hi hagree
  have back (d : Nat) (hd : 0 < d) : wordAt V (i - d) = wordAt W (i - d) := hagree _ (by omega)
  simp only [sched1Entry, back, Nat.reduceLT]

/-- The SHA-2 recurrence reads entries i-2, i-7, i-15 and i-16 (R123). -/
theorem readsBelow_sched2Entry : ReadsBelow sched2Entry := by
  intro V W i hi hagree
  have back (d : Nat) (hd : 0 < d) : wordAt V (i - d) = wordAt W (i - d) := hagree _ (by omega)
  simp only [sched2Entry, back, Nat.reduceLT]

/-- Every entry an expansion writes satisfies the recurrence in the finished schedule: no later write touches what it
read (R124). -/
theorem wordAt_expandBy_eq_entry {entry : Vector Word 80 → Nat → Word} (hreads : ReadsBelow entry) {count : Nat}
    (W : Vector Word 80) {i : Nat} (h16 : 16 ≤ i) (hi : i < 16 + count) (h80 : i < 80) :
    wordAt (expandBy entry count W) i = entry (expandBy entry count W) i := by
  obtain ⟨c, rfl⟩ := Nat.exists_eq_add_of_le h16
  have hc : c < count := Nat.add_lt_add_iff_left.mp hi
  rw [wordAt_expandBy entry count W hc h80]
  exact (hreads h16 fun j hj => wordAt_expandBy_stage entry W hc.le hj (hj.trans h80)).symm

/-! EXPAND -/

/-- The sequencer's move in EXPAND is the expansion of the algorithm latched (R125, R221). -/
theorem sequencerMove_expand {s : State} (hp : s.phase = .expand) : sequencerMove s = .next (afterExpand s) := by
  simp only [sequencerMove, hp]
  exact seqExpand_eq s

/-- SHA-224 and SHA-256 share one schedule (R123). -/
theorem expandFor_of_ne_sha1 {g : Alg} (h : g ≠ .sha1) : expandFor g = expand2 := by
  cases g with
  | sha1 => exact absurd rfl h
  | sha224 => rfl
  | sha256 => rfl

/-- Settles O39: the move is `sequencerMove_expand`; SHA-1 writes all of W[16..79], each entry by
`wordAt_expandBy_eq_entry`. -/
theorem expandSha1Step : Obligations.ExpandSha1Step := by
  unfold Obligations.ExpandSha1Step
  intro s hp halg
  have hmove : sequencerMove s = .next { s with W := expand1 s.W, phase := .round } := by
    rw [sequencerMove_expand hp, afterExpand, halg, expandFor]
  exact ⟨_, hmove, fun i hi => wordAt_expandBy_of_not _ _ _ (.inl hi),
    fun i h16 hi => wordAt_expandBy_eq_entry readsBelow_sched1Entry s.W h16 hi hi⟩

/-- Settles O40: the move is `sequencerMove_expand`; SHA-2 writes W[16..63], each entry by `wordAt_expandBy_eq_entry`, and
keeps the entries on both sides. -/
theorem expandSha2Step : Obligations.ExpandSha2Step := by
  unfold Obligations.ExpandSha2Step
  intro s hp halg
  have hmove : sequencerMove s = .next { s with W := expand2 s.W, phase := .round } := by
    rw [sequencerMove_expand hp, afterExpand, expandFor_of_ne_sha1 halg]
  exact ⟨_, hmove, fun i hi => wordAt_expandBy_of_not _ _ _ hi,
    fun i h16 hi => wordAt_expandBy_eq_entry readsBelow_sched2Entry s.W h16 hi (by omega)⟩

end Sys2Proof.Machine
end

section
/-! PROOFS. The sequencer's two operations of the compression: ROUND1 (42_sha1_compression.md R142, R144, R145) and the
add-back of both cores (R146, 43_sha2_compression.md R169). -/

namespace Sys2Proof.Machine

/-! ROUND1 -/

/-- With its bound met, the sequencer's move in ROUND is the round of the algorithm latched (R145, R168, R221). -/
theorem sequencerMove_round {s : State} (hp : s.phase = .round) (ht : s.t < roundCount s.algL) :
    sequencerMove s = .next (afterRound s) := by
  simp only [sequencerMove, hp]
  rw [seqRound_eq, if_pos ht]

/-- What depends on the phase floor(t / 20) of a SHA-1 round, by the range of t: each of the four phases is twenty rounds
(R142, R144). -/
theorem apply_phase_eq_by_range {α : Type} (f : Nat → α) {t : Nat} (ht : t < 80) :
    f (t / 20) = if t < 20 then f 0 else if t < 40 then f 1 else if t < 60 then f 2 else f 3 := by
  split_ifs <;> congr 1 <;> omega

/-- The SHA-1 round with its function and its constant given by the range of t (R142, R144, R145). -/
theorem round1_eq_by_range {t : Nat} (ht : t < 80) (w : Word) (v : Vector Word 8) :
    round1 t w v = #v[
      rotl v[0] 5 +
        (if t < 20 then ch v[1] v[2] v[3] else if t < 40 then parity v[1] v[2] v[3]
          else if t < 60 then maj v[1] v[2] v[3] else parity v[1] v[2] v[3]) +
        v[4] +
        (if t < 20 then 0x5A827999 else if t < 40 then 0x6ED9EBA1 else if t < 60 then 0x8F1BBCDC else 0xCA62C1D6) + w,
      v[0], rotl v[1] 30, v[2], v[3], v[5], v[6], v[7]] := by
  have hf := apply_phase_eq_by_range (phaseFunction · v[1] v[2] v[3]) ht
  have hk := apply_phase_eq_by_range k1 ht
  rw [round1, hf, hk]
  rfl

/-- Settles O41: the move is `sequencerMove_round`, and what it writes to work is `round1_eq_by_range`. -/
theorem round1Step : Obligations.Round1Step := by
  unfold Obligations.Round1Step
  intro s hp halg ht
  have hcount : roundCount s.algL = 80 := by rw [halg, roundCount]
  have hlast : s.t + 1 = 80 ↔ s.t = 79 := by omega
  rw [sequencerMove_round hp (by omega), afterRound, halg, roundFor, round1_eq_by_range ht]
  simp only [roundCount, hlast]

/-! ADDBACK -/

/-- The add-back writes H[0..S-1] only (R146, R169). -/
theorem wordAt_addBack_of_ge {size : Nat} (H work : Vector Word 8) {j : Nat} (h : size ≤ j) :
    wordAt (addBack size H work) j = wordAt H j := by
  obtain hj | hj := Nat.lt_or_ge j 8
  · rw [wordAt_addBack size H work hj, if_neg h.not_gt]
  · rw [wordAt_of_ge _ hj, wordAt_of_ge _ hj]

/-- With its bounds met, the sequencer's move in ADDBACK is the add-back of the algorithm latched (R146, R169, R221). -/
theorem sequencerMove_addback {s : State} (hp : s.phase = .addback) (ht : s.t = roundCount s.algL) (hblk : s.blk < s.n) :
    sequencerMove s = .next (afterAddback s) := by
  simp only [sequencerMove, hp]
  rw [seqAddback_eq, if_pos ⟨ht, hblk⟩]

/-- Settles O43: the move is `sequencerMove_addback`; the entries of the new H are those of `addBack`, each sum wrapping
mod 2^32 by itself. -/
theorem addbackStep : Obligations.AddbackStep := by
  unfold Obligations.AddbackStep
  intro s S R hS hR hp ht hblk
  have hsize : S = stateWords s.algL := hS
  have hcount : R = roundCount s.algL := hR
  subst hsize
  refine ⟨_, sequencerMove_addback hp (ht.trans hcount) hblk, fun j hj => ?_, fun j hj => wordAt_addBack_of_ge _ _ hj⟩
  rw [wordAt_addBack _ _ _ (hj.trans_le (stateWords_le _)), if_pos hj, BitVec.toNat_add]

end Sys2Proof.Machine
end

section
/-! PROOFS. ROUND2, the sequencer's operation of the SHA-2 compression (43_sha2_compression.md R160, R163, R168). -/

namespace Sys2Proof.Machine

/-! K256 -/

/-- The rows of K256 as one list (R163). -/
def k256Joined : List Word := (List.ofFn fun r : Fin 8 => (k256Row r).toList).flatten

/-- Entry t of the joined rows stands in row t / 8, column t mod 8, so it is K256[t] (R163). -/
theorem getD_k256Joined {t : Nat} (ht : t < 64) : k256Joined.getD t 0 = k256 t := by
  have hcol : t % 8 < 8 := Nat.mod_lt t (by decide)
  have hjoined : k256Joined = (Vector.ofFn fun r : Fin 8 => k256Row r).flatten.toList := by
    simp [k256Joined, Vector.toList, Vector.flatten]
  rw [hjoined, List.getD_eq_getElem _ _ (by simpa), Vector.getElem_toList, Vector.getElem_flatten, Vector.getElem_ofFn,
    k256, wordAt_of_lt _ hcol]

/-! ROUND2 -/

/-- SHA-224 and SHA-256 share one round count (R160). -/
theorem roundCount_of_ne_sha1 {g : Alg} (h : g ≠ .sha1) : roundCount g = 64 := by
  cases g with
  | sha1 => exact absurd rfl h
  | sha224 | sha256 => rfl

/-- SHA-224 and SHA-256 share one round (R168). -/
theorem roundFor_of_ne_sha1 {g : Alg} (h : g ≠ .sha1) : roundFor g = round2 := by
  cases g with
  | sha1 => exact absurd rfl h
  | sha224 | sha256 => rfl

/-- Settles O42: the move is `sequencerMove_round`; the 64 constants written out are `k256Joined`, so the one at t is
K256[t], and t1 and t2 are then `round2`'s `temp1` and `temp2`. -/
theorem round2Step : Obligations.Round2Step := by
  unfold Obligations.Round2Step
  intro s t1 t2 k hp halg ht hk ht1 ht2
  obtain rfl : k = k256 s.t := hk.trans (getD_k256Joined ht)
  have hcount := roundCount_of_ne_sha1 halg
  have hlast : s.t + 1 = 64 ↔ s.t = 63 := by omega
  rw [sequencerMove_round hp (by omega), afterRound, hcount, roundFor_of_ne_sha1 halg, ht1, ht2]
  simp only [hlast]
  rfl

end Sys2Proof.Machine
end

section
/-! PROOFS. The Digest Formatter (44_digest_formatter.md R190-R197): FORMAT, the reads of DIGEST and HEX, and that nothing
changes what they show while the phase stays DONE. -/

namespace Sys2Proof.Machine

/-! The formatted buffer -/

/-- The byte of a formatted digest's character 8j + i, from the value v of nibble i of H[j] (R192, R193, R196). -/
theorem toNat_ascii_charAt {buf : Vector HexChar 64} {H : Vector Word 8} {k j i v : Nat} (hk : k ≤ 8)
    (h : buf.toList.take (8 * k) = format H k) (hj : j < k) (hi : i < 8)
    (hv : v = (wordAt H j).toNat / 16 ^ (7 - i) % 16) :
    (ascii (charAt buf (8 * j + i))).toNat = if v < 10 then 0x30 + v else 0x57 + v := by
  rw [charAt_of_take_eq hk h (by omega), show (8 * j + i) / 8 = j by omega, show (8 * j + i) % 8 = i by omega,
    toNat_ascii_nibbleChar, toNat_nibbleOf _ _ hi, hv]

/-- FORMAT writes hexbuf[0..8k-1] only (R27, R193). -/
theorem charAt_formatInto_of_ge (H : Vector Word 8) {k : Nat} (buf : Vector HexChar 64) {m : Nat} (h : 8 * k ≤ m) :
    charAt (formatInto H k buf) m = charAt buf m := by
  obtain hm | hm := Nat.lt_or_ge m 64
  · rw [charAt_formatInto H k buf hm, if_neg h.not_gt]
  · simp only [charAt, hm.not_gt, dite_false]

/-- With its bound met, the sequencer's move in FORMAT is the FORMAT operation (R193, R221). -/
theorem sequencerMove_format {s : State} (hp : s.phase = .format) (hblk : s.blk = s.n) :
    sequencerMove s = .next (afterFormat s) := by
  simp only [sequencerMove, hp]
  rw [seqFormat_eq, if_pos hblk]

/-- Settles O44: the move is `sequencerMove_format`, and its write is the formatted digest by `take_formatInto`. -/
theorem formatStep : Obligations.FormatStep := by
  unfold Obligations.FormatStep
  intro s k hk hp hblk
  obtain rfl : k = outWords s.algL := hk
  have hle := outWords_le s.algL
  have htake := take_formatInto s.H hle s.hexbuf
  exact ⟨_, sequencerMove_format hp hblk, htake, fun j hj i hi v hv => toNat_ascii_charAt hle htake hj hi hv,
    fun m hm => charAt_formatInto_of_ge _ _ hm⟩

/-! The reads -/

theorem readDigest_of_done {s : State} (h : s.phase = .done) (j : Nat) :
    readDigest j s = respond (some (if j < outWords s.algL then wordAt s.H j else 0)) s := if_pos h

theorem readDigest_of_not_done {s : State} (h : s.phase ≠ .done) (j : Nat) : readDigest j s = respondDraw s := if_neg h

theorem readHex_of_done {s : State} (h : s.phase = .done) (m : Nat) :
    readHex m s = respond (some (if m < 2 * outWords s.algL then hexWord s.hexbuf m else 0)) s := if_pos h

theorem readHex_of_not_done {s : State} (h : s.phase ≠ .done) (m : Nat) : readHex m s = respondDraw s := if_neg h

/-- Settles O25: the transaction is `readDigest`, which answers by the phase and by j against k. -/
theorem digestRead : Obligations.DigestRead := by
  unfold Obligations.DigestRead
  intro s j d k hk
  obtain rfl : k = outWords s.algL := hk
  have hread : transact ⟨.reg, .rd, 4, 0x040 + 4 * j.val, d⟩ s = .next (readDigest j (respond none s)) :=
    transact_read_reg (.digest j) d s
  rw [hread]
  refine ⟨fun hp hj => ?_, fun hp hj => ?_, fun hp => ?_⟩
  · rw [readDigest_of_done (s := respond none s) hp, respond_algL, if_pos hj, respond_H, wordAt_of_lt _ j.isLt]
    rfl
  · rw [readDigest_of_done (s := respond none s) hp, respond_algL, if_neg hj.not_gt]
    rfl
  · rw [readDigest_of_not_done (s := respond none s) hp]
    rfl

/-- The bytes of HEX_m are those of its four characters, the lowest-indexed in bits 31:24 (R195). -/
theorem byteOfWord_hexWord (buf : Vector HexChar 64) (m : Nat) {i : Nat} (hi : i < 4) :
    byteOfWord (hexWord buf m) i = ascii (charAt buf (4 * m + i)) := by
  rw [hexWord, byteOfWord_packBytes _ _ _ _ hi]
  obtain rfl | rfl | rfl | rfl : i = 0 ∨ i = 1 ∨ i = 2 ∨ i = 3 := by omega
  all_goals rfl

/-- Settles O26: the transaction is `readHex`, which answers by the phase and by m against 2k; the invariant holds the
formatted digest in the buffer in DONE, and character 4m + i is nibble 4 (m mod 2) + i of word m / 2. -/
theorem hexRead : Obligations.HexRead := by
  unfold Obligations.HexRead
  intro s m d k hk
  obtain rfl : k = outWords s.algL := hk
  have hread : transact ⟨.reg, .rd, 4, 0x080 + 4 * m.val, d⟩ s = .next (readHex m (respond none s)) :=
    transact_read_reg (.hex m) d s
  rw [hread]
  refine ⟨fun hp hm => ⟨hexWord s.hexbuf m, ?_, fun i hi => byteOfWord_hexWord _ _ hi, fun hinv i hi v hv => ?_⟩,
    fun hp hm => ?_, fun hp => ?_⟩
  · rw [readHex_of_done (s := respond none s) hp, respond_algL, if_pos hm]
    rfl
  · rw [← toNat_byteOfWord _ _ hi, byteOfWord_hexWord _ _ hi,
      show 4 * m.val + i = 8 * (m.val / 2) + (4 * (m.val % 2) + i) by omega]
    exact toNat_ascii_charAt (outWords_le _) (hinv.formatted hp) (by omega) (by omega) hv
  · rw [readHex_of_done (s := respond none s) hp, respond_algL, if_neg hm.not_gt]
    rfl
  · rw [readHex_of_not_done (s := respond none s) hp]
    rfl

/-! The result in DONE -/

/-- H, hexbuf and algL are as before: all that DIGEST and HEX show in DONE (R194, R195). -/
def KeepsResult (s u : State) : Prop := u.H = s.H ∧ u.hexbuf = s.hexbuf ∧ u.algL = s.algL

theorem keepsResult_raiseFault (c : Cause) (s : State) : KeepsResult s (raiseFault c s) := by
  simp [KeepsResult]

/-- A command keeps the result, or it is an accepted START, which enters LOAD (R202). -/
theorem exec_result {i : Instr} {s u : State} (h : exec i s = .next u) : KeepsResult s u ∨ u.phase = .load := by
  obtain ⟨-, rfl⟩ | ⟨-, rfl⟩ | ⟨g, -, rfl⟩ := exec_cases h
  · exact .inl ⟨rfl, rfl, rfl⟩
  · exact .inl ⟨rfl, rfl, rfl⟩
  · obtain ⟨-, hu⟩ | ⟨-, hu⟩ | ⟨-, -, -, hu⟩ | ⟨-, -, hu⟩ := start_cases g s <;> rw [hu]
    · exact .inl ⟨rfl, rfl, rfl⟩
    · exact .inl (keepsResult_raiseFault _ s)
    · exact .inl (keepsResult_raiseFault _ s)
    · exact .inr rfl

/-- A transaction does to the result what its command does, and without one it keeps it (R197, R264). -/
theorem transact_result {x : Transaction} {s u : State} (h : transact x s = .next u) :
    KeepsResult s u ∨ u.phase = .load := by
  obtain ⟨v, d, -, rfl⟩ | ⟨c, r, d, -, -, rfl⟩ | ⟨i, -, hi⟩ | ⟨-, -, -, -, rfl⟩ | ⟨-, -, -, -, rfl⟩ | ⟨-, -, -, -, rfl⟩ :=
    transact_cases h
  · exact .inl ⟨rfl, rfl, rfl⟩
  · exact .inl (keepsResult_raiseFault c s)
  · exact (exec_result hi :)
  · exact .inl ⟨rfl, rfl, rfl⟩
  · exact .inl ⟨rfl, rfl, rfl⟩
  · exact .inl ⟨rfl, rfl, rfl⟩

theorem hostMove_result {s u : State} (h : hostMove s = .next u) : KeepsResult s u ∨ u.phase = .load := by
  obtain ⟨-, rfl⟩ | ⟨l, rest, p, w, p', v', -, hw, rfl, -⟩ := hostMove_cases h
  · exact .inl ⟨rfl, rfl, rfl⟩
  · exact (transact_result hw :)

/-- Outside the BUSY phases the sequencer has no move of its own (R220). -/
theorem sequencerMove_of_not_busy {s : State} (h : isBusy s.phase = false) : sequencerMove s = .next s := by
  unfold sequencerMove
  cases hp : s.phase with
  | idle | done | fault => rfl
  | load | expand | round | addback | format =>
    rw [hp] at h
    cases h

/-- Settles O56: only an accepted START writes the result from DONE, and it leaves DONE; the sequencer has no move there,
and a reset leaves DONE. -/
theorem resultIsStableInDone : Obligations.ResultIsStableInDone := by
  unfold Obligations.ResultIsStableInDone
  intro s u hp h hu
  obtain ⟨-, hm⟩ | ⟨-, hm⟩ | ⟨-, rfl⟩ := step_cases h
  · obtain hkeep | hload := hostMove_result hm
    · exact (hkeep :)
    · cases hu.symm.trans hload
  · have hbusy : isBusy (dropTurn s).phase = false := by rw [dropTurn_phase, hp]; rfl
    rw [sequencerMove_of_not_busy hbusy] at hm
    cases hm
    exact ⟨rfl, rfl, rfl⟩
  · cases hu

end Sys2Proof.Machine
end

section
/-! PROOFS. What a digest run holds at each phase (44_digest_formatter.md R197, 45_host_commands.md R222, R225, R227): the
folded compression of the message's blocks, whatever the files held before START and whatever the host does meanwhile. -/

namespace Sys2Proof.Machine

/-! The block and its schedule -/

/-- A block depends on the message only, not on what stands above it in the buffer (R101, R103). -/
theorem block_congr {byte : Nat → Byte} {M : List Byte} (h : ∀ q < M.length, byte q = M.getD q 0) (n i : Nat) :
    block byte M.length n i = block (fun q => M.getD q 0) M.length n i := by
  have hpad (q : Nat) : paddedByte byte M.length q = paddedByte (fun q => M.getD q 0) M.length q :=
    (paddedViewIsPadThenZeros M q).2 _ _ h
  simp only [block, blockWord, packedWord, hpad]

/-- An expansion depends on the first sixteen entries only (R124). -/
theorem wordAt_expandBy_congr {entry : Vector Word 80 → Nat → Word} (hreads : ReadsBelow entry) {V W : Vector Word 80}
    (h : ∀ j < 16, wordAt V j = wordAt W j) (count : Nat) :
    ∀ j < 16 + count, wordAt (expandBy entry count V) j = wordAt (expandBy entry count W) j := by
  induction count with
  | zero => exact h
  | succ count ih =>
    intro j hj
    obtain h80 | h80 := Nat.lt_or_ge j 80
    · obtain hlt | rfl : j < 16 + count ∨ j = 16 + count := by omega
      · rw [wordAt_expandBy_stage entry V (Nat.le_succ count) hlt h80,
          wordAt_expandBy_stage entry W (Nat.le_succ count) hlt h80, ih j hlt]
      · rw [wordAt_expandBy entry _ V (Nat.lt_succ_self count) h80,
          wordAt_expandBy entry _ W (Nat.lt_succ_self count) h80]
        exact hreads (Nat.le_add_right 16 count) ih
    · rw [wordAt_of_ge _ h80, wordAt_of_ge _ h80]

/-- The entries the rounds read depend on the block only, not on what the schedule held before (R24, R125). -/
theorem wordAt_expandFor_congr (g : Alg) {V W : Vector Word 80} (h : ∀ j < 16, wordAt V j = wordAt W j) :
    ∀ j < roundCount g, wordAt (expandFor g V) j = wordAt (expandFor g W) j := by
  cases g with
  | sha1 => exact wordAt_expandBy_congr readsBelow_sched1Entry h 64
  | sha224 | sha256 => exact wordAt_expandBy_congr readsBelow_sched2Entry h 48

/-- LOAD's first sixteen entries are the block, whatever W held (R24, R106). -/
theorem wordAt_loadBlock_of_lt (B : Vector Word 16) (W : Vector Word 80) {j : Nat} (h : j < 16) :
    wordAt (loadBlock B W) j = wordAt B j := by
  rw [wordAt_loadBlock B W (by omega), if_pos h]

/-! The digest, block by block -/

/-- Block i of the message M (R104). -/
def messageBlock (M : List Byte) (i : Nat) : Vector Word 16 :=
  block (fun q => M.getD q 0) M.length (nblocks M.length) i

/-- The HashState after the first i blocks of M (R12). -/
def stateAfter (g : Alg) (M : List Byte) (i : Nat) : Vector Word 8 :=
  foldCompress g (loadIv g (Vector.replicate 8 0)) ((List.range i).map (messageBlock M))

/-- After all its blocks the HashState is the message's (R12). -/
theorem stateAfter_nblocks (g : Alg) (M : List Byte) : stateAfter g M (nblocks M.length) = digestState g M := rfl

/-- The schedule of block i of M (R122, R123). -/
def messageSchedule (g : Alg) (M : List Byte) (i : Nat) : Vector Word 80 := expandFor g (blockFile (messageBlock M i))

/-- The working state of block i of M after t rounds (R147, R170). -/
def workAfter (g : Alg) (M : List Byte) (i t : Nat) : Vector Word 8 :=
  roundsFor g (messageSchedule g M i) t (stateAfter g M i)

/-- One more block: all its rounds, and the add-back (R12, R147, R170). -/
theorem stateAfter_succ (g : Alg) (M : List Byte) (i : Nat) :
    stateAfter g M (i + 1) = addBack (stateWords g) (stateAfter g M i) (workAfter g M i (roundCount g)) := by
  rw [stateAfter, List.range_succ, List.map_append, List.map_singleton, foldCompress_append, compress_eq]
  rfl

/-! What the core holds during a digest -/

/-- What the working state, the schedule and the buffer hold in each phase p of the digest of M. -/
def Files (g : Alg) (M : List Byte) (p : Phase) (s : State) : Prop :=
  match p with
  | .load | .format => True
  | .expand =>
    AgreeBelow (stateWords g) s.work (workAfter g M s.blk s.t) ∧ ∀ j < 16, wordAt s.W j = wordAt (messageBlock M s.blk) j
  | .round | .addback =>
    AgreeBelow (stateWords g) s.work (workAfter g M s.blk s.t) ∧
      ∀ j < roundCount g, wordAt s.W j = wordAt (messageSchedule g M s.blk) j
  | .done => s.blk = nblocks M.length ∧ s.hexbuf.toList.take (8 * outWords g) = format s.H (outWords g)
  | .idle | .fault => False

/-- The core is at some point of the digest of M by g, or in DONE after it: what START latched, the message in the buffer,
the HashState after the blocks already done, and what the files of the phase hold. -/
structure Digesting (g : Alg) (M : List Byte) (s : State) : Prop where
  algorithm : s.algL = g
  length : s.lenL = M.length
  blockCount : s.n = nblocks M.length
  message : ∀ q < M.length, Memory.read s.msg q = M[q]?
  hash : AgreeBelow (stateWords g) s.H (stateAfter g M s.blk)
  files : Files g M s.phase s

section
variable {g : Alg} {M : List Byte} {s : State} (h : Digesting g M s)
include h

/-- A written byte reads as it was written (R51, R52), so LOAD's block is the message's (R106). -/
theorem Digesting.block_eq : block (msgByte s) s.lenL s.n s.blk = messageBlock M s.blk := by
  have hbyte : ∀ q < M.length, msgByte s q = M.getD q 0 := fun q hq => by simp [msgByte, h.message q hq, hq]
  rw [h.length, h.blockCount]
  exact block_congr hbyte _ _

/-! The sequencer -/

/-- LOAD copies the HashState and the block, and zero rounds are done (R106). -/
theorem digesting_afterLoad : Digesting g M (afterLoad s) := by
  obtain rfl := h.algorithm
  refine ⟨rfl, h.length, h.blockCount, h.message, h.hash, fun j hj => ?_, fun j hj => ?_⟩
  · exact (agreeBelow_copyState (stateWords_le _) s.H s.work j hj).trans (h.hash j hj)
  · exact (wordAt_loadBlock_of_lt _ _ hj).trans (congrArg (wordAt · j) h.block_eq)

/-- EXPAND writes every entry the rounds will read (R125). -/
theorem digesting_afterExpand (hp : s.phase = .expand) : Digesting g M (afterExpand s) := by
  obtain rfl := h.algorithm
  obtain ⟨hwork, hW⟩ : Files s.algL M .expand s := hp ▸ h.files
  refine ⟨rfl, h.length, h.blockCount, h.message, h.hash, hwork, wordAt_expandFor_congr _ fun j hj => ?_⟩
  exact (hW j hj).trans (wordAt_loadBlock_of_lt _ _ hj).symm

/-- A round reads its own schedule entry, and the last one, t + 1 = R, goes to ADDBACK (R145, R168). -/
theorem digesting_afterRound (hp : s.phase = .round) (ht : s.t < roundCount s.algL) : Digesting g M (afterRound s) := by
  obtain rfl := h.algorithm
  obtain ⟨hwork, hW⟩ : Files s.algL M .round s := hp ▸ h.files
  have hnext : AgreeBelow (stateWords s.algL) (afterRound s).work (workAfter s.algL M s.blk (s.t + 1)) := by
    rw [afterRound, hW s.t ht]
    exact agreeBelow_roundFor s.algL s.t _ hwork
  refine ⟨rfl, h.length, h.blockCount, h.message, h.hash, ?_⟩
  obtain hphase | hphase : (afterRound s).phase = .addback ∨ (afterRound s).phase = .round := ite_eq_or_eq _ _ _
  all_goals
    rw [hphase]
    exact ⟨hnext, hW⟩

/-- The add-back after all rounds ends the block (R146, R169); the files are free until the next LOAD. -/
theorem digesting_afterAddback (hp : s.phase = .addback) (ht : s.t = roundCount s.algL) :
    Digesting g M (afterAddback s) := by
  obtain rfl := h.algorithm
  obtain ⟨hwork, -⟩ : Files s.algL M .addback s := hp ▸ h.files
  rw [ht] at hwork
  refine ⟨rfl, h.length, h.blockCount, h.message, ?_, ?_⟩
  · show AgreeBelow _ (addBack _ s.H s.work) (stateAfter s.algL M (s.blk + 1))
    rw [stateAfter_succ]
    exact agreeBelow_addBack (stateWords_le _) h.hash hwork
  · obtain hphase | hphase : (afterAddback s).phase = .format ∨ (afterAddback s).phase = .load := ite_eq_or_eq _ _ _
    all_goals
      rw [hphase]
      trivial

/-- FORMAT comes after the last block, and writes the formatted HashState (R193). -/
theorem digesting_afterFormat (hblk : s.blk = s.n) : Digesting g M (afterFormat s) := by
  obtain rfl := h.algorithm
  exact ⟨rfl, h.length, h.blockCount, h.message, h.hash, hblk.trans h.blockCount,
    take_formatInto s.H (outWords_le _) s.hexbuf⟩

/-- Each operation of the sequencer takes the digest to its next phase (R221). -/
theorem digesting_sequencerMove {u : State} (hu : sequencerMove s = .next u) : Digesting g M u := by
  obtain ⟨-, rfl⟩ | ⟨-, -, -, rfl⟩ | ⟨hp, rfl⟩ | ⟨hp, ht, rfl⟩ | ⟨hp, ht, -, rfl⟩ | ⟨-, hblk, rfl⟩ :=
    sequencerMove_cases hu
  · exact h
  · exact digesting_afterLoad h
  · exact digesting_afterExpand h hp
  · exact digesting_afterRound h hp ht
  · exact digesting_afterAddback h hp ht
  · exact digesting_afterFormat h hblk

/-- The digest knows nothing of the response, the draws, the schedule of moves or the host (R225). -/
theorem digesting_congr (r : Option Word) (d : Nat) (w : List Turn) (p : List HostLine) (v : List (Nat × Word)) :
    Digesting g M { s with rdata := r, draws := d, turns := w, program := p, vars := v } :=
  ⟨h.algorithm, h.length, h.blockCount, h.message, h.hash, h.files⟩

end

/-! The host -/

/-- A command while BUSY that raises no fault is NOP or CLEAR (R201-R203). -/
theorem exec_of_busy {i : Instr} {s u : State} (hb : isBusy s.phase = true) (h : exec i s = .next u)
    (hf : u.phase ≠ .fault) : u = s ∨ (i = .clear ∧ u = leaveFault s) := by
  obtain ⟨-, hu⟩ | hclear | ⟨g, -, hu⟩ := exec_cases h
  · exact .inl hu
  · exact .inr hclear
  · obtain ⟨hp, -⟩ | ⟨-, hst⟩ | ⟨-, hnb, -⟩ | ⟨hp, -⟩ := start_cases g s
    · rw [hp] at hb
      cases hb
    · rw [hu, hst] at hf
      exact absurd (raiseFault_phase _ s) hf
    · cases hb.symm.trans hnb
    · obtain hp | hp := hp <;> rw [hp] at hb <;> cases hb

/-- A transaction while BUSY that raises no fault answers at most, or it is CLEAR (R222, R223). -/
theorem transact_of_busy {x : Transaction} {s u : State} (hb : isBusy s.phase = true) (h : transact x s = .next u)
    (hf : u.phase ≠ .fault) :
    (∃ r d, u = answered r d s) ∨ (IsCommand x .clear ∧ u = leaveFault (respond none s)) := by
  obtain ⟨v, d, -, hu⟩ | ⟨c, r, d, -, -, rfl⟩ | ⟨i, hx, hi⟩ | ⟨hnb, -⟩ | ⟨hnb, -⟩ | ⟨hnb, -⟩ := transact_cases h
  · exact .inl ⟨_, d, hu⟩
  · exact absurd (raiseFault_phase c s) hf
  · obtain rfl | ⟨rfl, hu⟩ := exec_of_busy (s := respond none s) hb hi hf
    · exact .inl ⟨none, s.draws, rfl⟩
    · exact .inr ⟨hx, hu⟩
  all_goals cases hb.symm.trans hnb

/-- A host move while BUSY that raises no fault and does not clear leaves the digest as it is (R222, R225). -/
theorem digesting_hostMove {g : Alg} {M : List Byte} {s u : State} (h : Digesting g M s) (hb : isBusy s.phase = true)
    (hu : hostMove s = .next u) (hf : u.phase ≠ .fault) (hi : u.phase ≠ .idle) : Digesting g M u := by
  obtain ⟨-, rfl⟩ | ⟨l, rest, p, w, p', v', -, hw, rfl, -⟩ := hostMove_cases hu
  · exact h
  · obtain ⟨r, d, rfl⟩ | ⟨-, rfl⟩ := transact_of_busy (s := { s with program := p }) hb hw hf
    · exact digesting_congr h r d s.turns p' v'
    · exact absurd rfl hi

/-! The run -/

/-- An accepted START on a ready state begins the digest: H[0..S-1] is the IV, whatever H held (R202, R227). -/
theorem digesting_start {g : Alg} {M : List Byte} {s : State} (h : Ready M s) : Digesting g M (start g s) := by
  obtain ⟨hp, hlen, hcap, hmsg⟩ := h
  obtain ⟨hf, -⟩ | ⟨hb, -⟩ | ⟨-, -, hlt, -⟩ | ⟨-, -, hbegin⟩ := start_cases g s
  · simp [hf] at hp
  · obtain hp | hp := hp <;> rw [hp] at hb <;> cases hb
  · omega
  · rw [hbegin, hlen]
    refine ⟨rfl, rfl, rfl, hmsg, fun j hj => ?_, trivial⟩
    show wordAt (loadIv g s.H) j = wordAt (loadIv g (Vector.replicate 8 0)) j
    have hj8 := hj.trans_le (stateWords_le g)
    rw [wordAt_loadIv _ _ hj8, wordAt_loadIv _ _ hj8, if_pos hj, if_pos hj]

/-- The command of an algorithm starts it (R75, R202). -/
theorem exec_startCommand (g : Alg) (s : State) : exec (startCommand g) s = .next (start g s) := by
  cases g <;> rfl

/-- Every step of a run keeps the digest: the sequencer advances it, the host leaves it, and a reset ends in IDLE. -/
theorem digesting_of_digestRun {g : Alg} {M : List Byte} {b u : State} (hb : Digesting g M b) (hrun : DigestRun b u) :
    Digesting g M u := by
  induction hrun with
  | start => exact hb
  | @step u v _ hbusy hstep hf hi ih =>
    have hd : Digesting g M (dropTurn u) := digesting_congr ih u.rdata u.draws u.turns.tail u.program u.vars
    obtain ⟨-, hm⟩ | ⟨-, hm⟩ | ⟨-, rfl⟩ := step_cases hstep
    · exact digesting_hostMove hd hbusy hm hf hi
    · exact digesting_sequencerMove hd hm
    · exact absurd rfl hi

/-- In DONE the core holds the digest of the message: the HashState after all its blocks, formatted (R193, R222). -/
theorem Digesting.result {g : Alg} {M : List Byte} {u : State} (h : Digesting g M u) (hd : u.phase = .done) :
    u.algL = g ∧ AgreeBelow (stateWords g) u.H (digestState g M) ∧
      u.hexbuf.toList.take (8 * outWords g) = digest g M := by
  obtain ⟨hblk, hbuf⟩ : Files g M .done u := hd ▸ h.files
  have hhash := h.hash
  rw [hblk, stateAfter_nblocks] at hhash
  exact ⟨h.algorithm, hhash, hbuf.trans (format_of_agreeBelow (outWords_le_stateWords g) hhash)⟩

/-- Whatever the schedule and the host program, a run from START that reaches DONE holds the digest of M (R222, R225). -/
theorem result_of_digestRun {g : Alg} {M : List Byte} {s b u : State} (hs : Ready M s)
    (hb : exec (startCommand g) s = .next b) (hrun : DigestRun b u) (hd : u.phase = .done) :
    u.algL = g ∧ AgreeBelow (stateWords g) u.H (digestState g M) ∧
      u.hexbuf.toList.take (8 * outWords g) = digest g M := by
  rw [exec_startCommand] at hb
  cases hb
  exact (digesting_of_digestRun (digesting_start hs) hrun).result hd

/-! What the host reads of it -/

/-- In DONE, what a register other than LEN reads depends on the algorithm, the words of H below k and the characters
below 8k only (R28, R194, R195, R207). -/
theorem rdata_regRead_congr {u u' : State} (hd : u.phase = .done) (hd' : u'.phase = .done) (halg : u'.algL = u.algL)
    (hH : AgreeBelow (outWords u.algL) u.H u'.H)
    (hbuf : ∀ m < 8 * outWords u.algL, charAt u.hexbuf m = charAt u'.hexbuf m) {r : Reg} (hlo : r ≠ .lenLo)
    (hhi : r ≠ .lenHi) : (regRead r u).rdata = (regRead r u').rdata := by
  cases r with
  | cmd => rfl
  | status => simp only [regRead, respond_rdata, statusWord_of_done hd, statusWord_of_done hd']
  | lenLo => exact absurd rfl hlo
  | lenHi => exact absurd rfl hhi
  | digest j =>
    simp only [regRead, readDigest_of_done hd, readDigest_of_done hd', respond_rdata, halg]
    split
    · rw [hH j ‹_›]
    · rfl
  | hex m =>
    simp only [regRead, readHex_of_done hd, readHex_of_done hd', respond_rdata, halg]
    split
    · rw [hexWord, hexWord, hbuf _ (by omega), hbuf _ (by omega), hbuf _ (by omega), hbuf _ (by omega)]
    · rfl

/-- Settles O59: by `result_of_digestRun` both runs end with the digest of M, and what the registers read depends on
nothing else. -/
theorem digestDependsOnlyOnAlgorithmAndMessage : Obligations.DigestDependsOnlyOnAlgorithmAndMessage := by
  unfold Obligations.DigestDependsOnlyOnAlgorithmAndMessage
  intro g M s b u s' b' u' hs hs' hb hb' hrun hrun' hd hd' r hlo hhi
  obtain ⟨rfl, hH, hbuf⟩ := result_of_digestRun hs hb hrun hd
  obtain ⟨halg, hH', hbuf'⟩ := result_of_digestRun hs' hb' hrun' hd'
  have hk := outWords_le u.algL
  refine rdata_regRead_congr hd hd' halg (fun j hj => ?_) (fun m hm => ?_) hlo hhi
  · have hjS := hj.trans_le (outWords_le_stateWords u.algL)
    rw [hH j hjS, hH' j hjS]
  · rw [charAt_of_take_eq hk hbuf hm, charAt_of_take_eq hk hbuf' hm]

end Sys2Proof.Machine
end

section
/-! PROOFS. The host's commands and registers and the sequencer (45_host_commands.md R200-R227): the five commands, LEN, the
message buffer's transactions, that no state of the invariant stops, and the digest run. -/

namespace Sys2Proof.Machine

/-! NOP and CLEAR -/

/-- A CMD write of a command's own word runs the command (R70, R200). -/
theorem transact_write_command (i : Instr) (s : State) :
    transact ⟨.reg, .wr, 4, 0x000, encode i⟩ s = exec i (respond none s) :=
  (transact_write_cmd _ s).trans (cmdWrite_of_command (decode_encode i) _)

/-- Settles O6: the word is NOP's own, so its write runs NOP. -/
theorem nopCompletes : Obligations.NopCompletes := by
  unfold Obligations.NopCompletes
  exact fun s => ⟨by decide, rfl, transact_write_command .nop s⟩

/-- Settles O7: the word is CLEAR's own, so its write runs CLEAR, and STATUS is 0 in IDLE. -/
theorem clearCompletes : Obligations.ClearCompletes := by
  unfold Obligations.ClearCompletes
  exact fun s => ⟨by decide, rfl, transact_write_command .clear s, statusWord_of_idle rfl⟩

/-! START -/

theorem not_fault_of_busy {p : Phase} (h : isBusy p = true) : p ≠ .fault := by
  rintro rfl
  cases h

theorem not_fault_not_busy_of_idle_or_done {p : Phase} (h : p = .idle ∨ p = .done) :
    p ≠ .fault ∧ isBusy p = false := by
  obtain rfl | rfl := h <;> decide

theorem start_of_fault (g : Alg) {s : State} (h : s.phase = .fault) : start g s = s := if_pos h

theorem start_of_busy (g : Alg) {s : State} (h : isBusy s.phase = true) :
    start g s = { s with cause := .busyViolation, phase := .fault } := by
  have hf := not_fault_of_busy h
  rw [start, if_neg hf, if_pos h, raiseFault_of_not_fault _ hf]

theorem start_of_too_long (g : Alg) {s : State} (hp : s.phase = .idle ∨ s.phase = .done)
    (h : capacity s < messageLength s) : start g s = { s with cause := .lengthRange, phase := .fault } := by
  obtain ⟨hf, hb⟩ := not_fault_not_busy_of_idle_or_done hp
  rw [start, if_neg hf, hb, if_neg Bool.false_ne_true, if_pos h, raiseFault_of_not_fault _ hf]

theorem start_of_fits (g : Alg) {s : State} (hp : s.phase = .idle ∨ s.phase = .done)
    (h : messageLength s ≤ capacity s) : start g s = beginDigest g (messageLength s) s := by
  obtain ⟨hf, hb⟩ := not_fault_not_busy_of_idle_or_done hp
  rw [start, if_neg hf, hb, if_neg Bool.false_ne_true, if_neg h.not_gt]

/-- Settles O11: each START is `start` of its algorithm, and the refusals are `start_of_fault`, `start_of_busy` and
`start_of_too_long`. -/
theorem startRefusals : Obligations.StartRefusals := by
  unfold Obligations.StartRefusals
  intro i s hi
  obtain ⟨g, rfl⟩ : ∃ g, i = startCommand g := by
    simp only [List.mem_cons, List.not_mem_nil, or_false] at hi
    obtain rfl | rfl | rfl := hi
    · exact ⟨.sha1, rfl⟩
    · exact ⟨.sha224, rfl⟩
    · exact ⟨.sha256, rfl⟩
  rw [exec_startCommand]
  exact ⟨fun h => congrArg _ (start_of_fault g h), fun h => congrArg _ (start_of_busy g ((isBusy_iff_mem _).mpr h)),
    fun hp h => congrArg _ (start_of_too_long g hp h)⟩

/-- The block count in the closed form of R102 with a floor. -/
theorem nblocks_eq_div (L : Nat) : nblocks L = (L + 8) / 64 + 1 := by
  unfold nblocks
  omega

/-- START writes H[0..S-1] only (R22, R202). -/
theorem wordAt_loadIv_of_ge (g : Alg) (H : Vector Word 8) {j : Nat} (h : stateWords g ≤ j) :
    wordAt (loadIv g H) j = wordAt H j := by
  obtain hj | hj := Nat.lt_or_ge j 8
  · rw [wordAt_loadIv g H hj, if_neg h.not_gt]
  · rw [wordAt_of_ge _ hj, wordAt_of_ge _ hj]

/-- SHA-1's IV fills H[0..4] (R141). -/
theorem loadIv_sha1 (H : Vector Word 8) : loadIv .sha1 H =
    #v[(0x67452301 : Word), 0xEFCDAB89, 0x98BADCFE, 0x10325476, 0xC3D2E1F0, H[5], H[6], H[7]] := rfl

/-- SHA-224's IV fills H (R162). -/
theorem loadIv_sha224 (H : Vector Word 8) : loadIv .sha224 H = iv224 := rfl

/-- SHA-256's IV fills H (R161). -/
theorem loadIv_sha256 (H : Vector Word 8) : loadIv .sha256 H = iv256 := rfl

/-- The state an accepted START leaves, with the length and the block count written out and H the one that holds the IV
(R74, R102, R202). -/
theorem exec_startCommand_of_fits {g : Alg} {s : State} {H : Vector Word 8} (hH : loadIv g s.H = H)
    (hp : s.phase = .idle ∨ s.phase = .done) (h : messageLength s ≤ capacity s) :
    exec (startCommand g) s = .next { s with
      algL := g
      lenL := s.lenHi.toNat * 2 ^ 32 + s.lenLo.toNat
      n := (s.lenHi.toNat * 2 ^ 32 + s.lenLo.toNat + 8) / 64 + 1
      blk := 0
      t := startRound g s.draws
      H := H
      phase := .load
      draws := s.draws + 1 } := by
  rw [exec_startCommand, start_of_fits g hp h, beginDigest, hH, nblocks_eq_div, messageLength]

/-- Settles O8: `exec_startCommand_of_fits` with SHA-1's IV; R is 80. -/
theorem startSha1Completes : Obligations.StartSha1Completes := by
  unfold Obligations.StartSha1Completes
  exact fun s hp h => exec_startCommand_of_fits (loadIv_sha1 s.H) hp h

/-- Settles O9: `exec_startCommand_of_fits` with SHA-224's IV; R is 64. -/
theorem startSha224Completes : Obligations.StartSha224Completes := by
  unfold Obligations.StartSha224Completes
  exact fun s hp h => exec_startCommand_of_fits (loadIv_sha224 s.H) hp h

/-- Settles O10: `exec_startCommand_of_fits` with SHA-256's IV; R is 64. -/
theorem startSha256Completes : Obligations.StartSha256Completes := by
  unfold Obligations.StartSha256Completes
  exact fun s hp h => exec_startCommand_of_fits (loadIv_sha256 s.H) hp h

/-! The frame of the commands -/

/-- Settles O12: by what the command did. NOP, CLEAR and a refused START write phase and cause at most, and an accepted
START, which is neither NOP nor CLEAR and enters LOAD, writes H[0..S-1] only. -/
theorem commandFrame : Obligations.CommandFrame := by
  unfold Obligations.CommandFrame
  intro i s u h
  obtain ⟨rfl, rfl⟩ | ⟨rfl, rfl⟩ | ⟨g, hi, rfl⟩ := exec_cases h
  · simp
  · simp
  · have hnop : i ≠ .nop := by rintro rfl; cases hi
    have hclear : i ≠ .clear := by rintro rfl; cases hi
    obtain ⟨-, hu⟩ | ⟨-, hu⟩ | ⟨-, -, -, hu⟩ | ⟨-, -, hu⟩ := start_cases g s <;> rw [hu]
    · simp
    · simp [hnop, hclear]
    · simp [hnop, hclear]
    · have hH : i = .startSha1 → ∀ j, 5 ≤ j → wordAt (loadIv g s.H) j = wordAt s.H j := by
        rintro rfl j hj
        cases hi
        exact wordAt_loadIv_of_ge .sha1 s.H hj
      simpa [beginDigest, hnop, hclear] using hH

/-! Registers -/

/-- A word write at a register's offset is that register's write (R32, R210). -/
theorem transact_write_reg (r : Reg) (v : Word) (s : State) :
    transact ⟨.reg, .wr, 4, regOffset r, v⟩ s = regWrite r v (respond none s) := by
  simp only [transact, regAccess, regAt_eq_some.mpr rfl, ne_eq, not_true_eq_false, if_false]

/-- A fault raised by a write outside FAULT is recorded, and nothing else changes (R241). -/
theorem raiseFault_respond_none (c : Cause) {s : State} (h : s.phase ≠ .fault) :
    raiseFault c (respond none s) = { s with cause := c, phase := .fault, rdata := none } :=
  raiseFault_of_not_fault c (s := respond none s) h

/-- Settles O21: the transactions are `writeLenLo` and `writeLenHi`, which ask whether the phase is BUSY. -/
theorem lengthWrite : Obligations.LengthWrite := by
  unfold Obligations.LengthWrite
  intro s v
  rw [← isBusy_iff_mem, ← not_isBusy_iff_mem, show 0x008 = regOffset .lenLo from rfl,
    show 0x00C = regOffset .lenHi from rfl, transact_write_reg, transact_write_reg]
  simp only [regWrite, writeLenLo, writeLenHi, respond_phase]
  refine ⟨fun hb => ?_, fun hb => ?_⟩
  · simp only [hb, if_true, raiseFault_respond_none _ (not_fault_of_busy hb), and_self]
  · simp only [hb, Bool.false_eq_true, if_false]
    exact ⟨rfl, rfl⟩

/-- Settles O22: the reads answer the two registers, and the invariant ties them to the latched length. -/
theorem lengthRead : Obligations.LengthRead := by
  unfold Obligations.LengthRead
  exact fun s d => ⟨transact_read_reg .lenLo d s, transact_read_reg .lenHi d s, fun h hb => (h.busyLength hb).symm⟩

/-- Settles O23: the read of CMD answers 0. -/
theorem cmdRead : Obligations.CmdRead := by
  unfold Obligations.CmdRead
  exact fun s d => transact_read_reg .cmd d s

/-- The offsets of STATUS, DIGEST_j and HEX_m refuse a write (R208). -/
theorem transact_write_readOnly {off : Nat}
    (h : off = 0x004 ∨ (∃ j < 8, off = 0x040 + 4 * j) ∨ ∃ m < 16, off = 0x080 + 4 * m) (v : Word) (s : State) :
    transact ⟨.reg, .wr, 4, off, v⟩ s = .next (badAccess .wr (respond none s)) := by
  obtain rfl | ⟨j, hj, rfl⟩ | ⟨m, hm, rfl⟩ := h
  · exact transact_write_reg .status v s
  · exact transact_write_reg (.digest ⟨j, hj⟩) v s
  · exact transact_write_reg (.hex ⟨m, hm⟩) v s

/-- Settles O24: the write is refused, and `badAccess_effect` says what that does in FAULT and outside. -/
theorem readOnlyWriteFaults : Obligations.ReadOnlyWriteFaults := by
  unfold Obligations.ReadOnlyWriteFaults
  intro s off v hoff
  obtain ⟨outside, -, inside, -⟩ := badAccess_effect .wr s
  rw [transact_write_readOnly hoff]
  exact ⟨fun h => congrArg _ (outside h rfl), fun h => congrArg _ (inside h rfl)⟩

/-! The message buffer -/

/-- The legal MSG accesses (R60). -/
theorem msgAccessOk_iff {cap width addr : Nat} : msgAccessOk cap width addr = true ↔
    (width = 1 ∧ addr < cap) ∨ (width = 4 ∧ addr % 4 = 0 ∧ addr + 4 ≤ cap) := by
  simp [msgAccessOk, and_assoc]

/-- A legal MSG write outside the BUSY phases stores its data and does nothing else (R211). -/
theorem transact_msg_write {s : State} {width addr : Nat} (v : Word) (hok : msgAccessOk (capacity s) width addr = true)
    (hb : isBusy s.phase = false) : transact ⟨.msg, .wr, width, addr, v⟩ s =
      .next { s with msg := msgStore width addr v s.msg, rdata := none } := by
  have hok' : msgAccessOk (capacity (respond none s)) width addr = true := hok
  simp only [transact, msgAccess, msgWrite, hok', if_true, respond_phase, hb, Bool.false_eq_true, if_false]
  rfl

/-- A legal MSG read answers the byte or the word (R212). -/
theorem transact_msg_read {s : State} {width addr : Nat} (d : Word) (hok : msgAccessOk (capacity s) width addr = true) :
    transact ⟨.msg, .rd, width, addr, d⟩ s = .next { s with
      rdata := some (if width = 1 then (msgByte s addr).setWidth 32 else msgWord s addr) } := by
  have hok' : msgAccessOk (capacity (respond none s)) width addr = true := hok
  simp only [transact, msgAccess, msgRead, hok', if_true]
  rfl

/-- Settles O29: the access is legal, and the store is a write of bits 7:0. -/
theorem msgByteWrite : Obligations.MsgByteWrite := by
  unfold Obligations.MsgByteWrite
  intro s a v ha hp
  refine ⟨_, transact_msg_write v (msgAccessOk_iff.mpr (.inl ⟨rfl, ha⟩)) ((not_isBusy_iff_mem _).mpr hp), ?_⟩
  have hread (c : Nat) : Memory.read (msgStore 1 a v s.msg) c =
      if c = a then some (v.setWidth 8) else Memory.read s.msg c := Memory.read_write s.msg a c _
  rw [hread, if_pos rfl, ← BitVec.setWidth_eq_extractLsb' (by decide)]
  exact ⟨rfl, fun c hc => by rw [hread, if_neg hc]⟩

/-- Settles O30: the access is legal, and the store is a word write, whose lanes are the bytes of the data. -/
theorem msgWordWrite : Obligations.MsgWordWrite := by
  unfold Obligations.MsgWordWrite
  intro s a v halign ha hp
  refine ⟨_, transact_msg_write v (msgAccessOk_iff.mpr (.inr ⟨rfl, halign, ha⟩)) ((not_isBusy_iff_mem _).mpr hp), ?_⟩
  have hread (c : Nat) : Memory.read (msgStore 4 a v s.msg) c =
      if a ≤ c ∧ c < a + 4 then some (byteOfWord v (c - a)) else Memory.read s.msg c := Memory.read_writeWord s.msg a c v
  have lane (i : Nat) (hi : i < 4) :
      Memory.read (msgStore 4 a v s.msg) (a + i) = some (v.extractLsb' (24 - 8 * i) 8) := by
    rw [hread, if_pos (by omega), Nat.add_sub_cancel_left, byteOfWord_eq_extractLsb']
  exact ⟨lane 0 (by decide), lane 1 (by decide), lane 2 (by decide), lane 3 (by decide),
    fun c hc => by rw [hread, if_neg (by omega)]⟩

/-- Settles O31: the access is legal, so the fault is BUSY's. -/
theorem msgWriteWhileBusyFaults : Obligations.MsgWriteWhileBusyFaults := by
  unfold Obligations.MsgWriteWhileBusyFaults
  intro s w a v hp hform
  have hb := (isBusy_iff_mem _).mpr hp
  have hok : msgAccessOk (capacity (respond none s)) w a = true := msgAccessOk_iff.mpr hform
  simp only [transact, msgAccess, msgWrite, hok, if_true, respond_phase, hb,
    raiseFault_respond_none _ (not_fault_of_busy hb)]

/-- A byte of the buffer is the one written, or else its draw (R52). -/
theorem msgByte_eq_getD (s : State) (q : Nat) :
    msgByte s q = (Memory.read s.msg q).getD (Config.unwrittenByte s.resets q) := by
  unfold msgByte
  cases Memory.read s.msg q <;> rfl

/-- Settles O32: both accesses are legal, and the byte function is `msgByte`. -/
theorem msgReadReturnsBytes : Obligations.MsgReadReturnsBytes := by
  unfold Obligations.MsgReadReturnsBytes
  intro s a d b hbyte
  obtain rfl : b = msgByte s := funext fun c => (hbyte c).trans (msgByte_eq_getD s c).symm
  exact ⟨fun ha => transact_msg_read d (msgAccessOk_iff.mpr (.inl ⟨rfl, ha⟩)),
    fun halign ha => transact_msg_read d (msgAccessOk_iff.mpr (.inr ⟨rfl, halign, ha⟩))⟩

/-! The host while BUSY -/

/-- Settles O55: by `transact_of_busy` the transaction answers at most, or it is a CMD write of CLEAR. -/
theorem busyHostCannotDisturbTheDigest : Obligations.BusyHostCannotDisturbTheDigest := by
  unfold Obligations.BusyHostCannotDisturbTheDigest
  intro x s u hb h hf hclear
  obtain ⟨r, d, rfl⟩ | ⟨⟨hsp, hdir, hw, haddr, hdec⟩, -⟩ := transact_of_busy hb h hf
  · rfl
  · exact absurd ⟨hsp, hdir, hw, haddr, eq_encode_of_decode hdec⟩ hclear

/-! The sequencer's phases -/

/-- Settles O45: each outcome of `sequencerMove_cases` enters the phase the table gives. -/
theorem sequencerPhaseTable : Obligations.SequencerPhaseTable := by
  unfold Obligations.SequencerPhaseTable
  intro s u h
  obtain ⟨hb, rfl⟩ | ⟨hp, -, -, rfl⟩ | ⟨hp, rfl⟩ | ⟨hp, -, rfl⟩ | ⟨hp, -, hblk, rfl⟩ | ⟨hp, -, rfl⟩ :=
    sequencerMove_cases h
  · revert hb
    cases u.phase <;> simp [isBusy]
  · simp only [hp, afterLoad]
  · simp only [hp, afterExpand]
  · have hR : roundCount s.algL = if s.algL = .sha1 then 80 else 64 := by cases s.algL <;> rfl
    simp only [hp, afterRound, hR]
  · obtain hlast | hmore : s.blk + 1 = s.n ∨ s.blk + 1 < s.n := by omega
    · simp only [hp, afterAddback, hlast, if_true, lt_irrefl, if_false]
    · simp only [hp, afterAddback, hmore.ne, if_false, hmore, if_true]
  · simp only [hp, afterFormat]

/-! The sequencer's progress -/

/-- The steps to DONE, from any phase of a digest: what is left of the block in progress (LOAD, EXPAND, R rounds, ADDBACK),
R + 3 steps for each block after it, and FORMAT (R148, R171). -/
def stepsLeft (s : State) : Nat :=
  match s.phase with
  | .load => (s.n - (s.blk + 1)) * (roundCount s.algL + 3) + (roundCount s.algL + 4)
  | .expand => (s.n - (s.blk + 1)) * (roundCount s.algL + 3) + (roundCount s.algL + 3)
  | .round => (s.n - (s.blk + 1)) * (roundCount s.algL + 3) + (roundCount s.algL - s.t + 2)
  | .addback => (s.n - (s.blk + 1)) * (roundCount s.algL + 3) + 2
  | .format => 1
  | .idle | .done | .fault => 0

/-- The bounds of a BUSY state, from which every requires line of the sequencer follows (R35). -/
def WithinBounds (s : State) : Prop :=
  BusyBounds s.phase s.blk s.n s.t (roundCount s.algL) ∧ s.lenL ≤ capacity s

/-- One step nearer to DONE: there, or BUSY and within the bounds. -/
def Nearer (s u : State) : Prop := stepsLeft s = stepsLeft u + 1 ∧ (WithinBounds u ∨ u.phase = .done)

/-- FORMAT is the last step. -/
theorem nearer_afterFormat {s : State} (hp : s.phase = .format) : Nearer s (afterFormat s) := by
  refine ⟨?_, .inr rfl⟩
  simp only [stepsLeft, hp, afterFormat]

section
variable {s : State} (h : WithinBounds s)
include h

theorem nearer_afterLoad (hp : s.phase = .load) : Nearer s (afterLoad s) := by
  obtain ⟨hbounds, hlen⟩ := h
  obtain ⟨hblk, -⟩ : BusyBounds .load _ _ _ _ := hp ▸ hbounds
  refine ⟨?_, .inl ⟨⟨hblk, rfl⟩, hlen⟩⟩
  simp only [stepsLeft, hp, afterLoad]
  omega

theorem nearer_afterExpand (hp : s.phase = .expand) : Nearer s (afterExpand s) := by
  obtain ⟨hbounds, hlen⟩ := h
  obtain ⟨hblk, ht⟩ : BusyBounds .expand _ _ _ _ := hp ▸ hbounds
  refine ⟨?_, .inl ⟨⟨hblk, ht ▸ roundCount_pos s.algL⟩, hlen⟩⟩
  simp only [stepsLeft, hp, afterExpand, ht]
  omega

/-- The last round, t + 1 = R, goes to ADDBACK; the others stay below R. -/
theorem nearer_afterRound (hp : s.phase = .round) : Nearer s (afterRound s) := by
  obtain ⟨hbounds, hlen⟩ := h
  obtain ⟨hblk, ht⟩ : BusyBounds .round _ _ _ _ := hp ▸ hbounds
  obtain hlast | hmore : s.t + 1 = roundCount s.algL ∨ s.t + 1 < roundCount s.algL := by omega
  · refine ⟨?_, .inl ⟨?_, hlen⟩⟩
    · simp only [stepsLeft, hp, afterRound, hlast, if_true]
      omega
    · simp only [afterRound, hlast, if_true]
      exact ⟨hblk, rfl⟩
  · refine ⟨?_, .inl ⟨?_, hlen⟩⟩
    · simp only [stepsLeft, hp, afterRound, hmore.ne, if_false]
      omega
    · simp only [afterRound, hmore.ne, if_false]
      exact ⟨hblk, hmore⟩

/-- The last block, blk + 1 = n, goes to FORMAT; the others leave a block for the next LOAD. -/
theorem nearer_afterAddback (hp : s.phase = .addback) : Nearer s (afterAddback s) := by
  obtain ⟨hbounds, hlen⟩ := h
  obtain ⟨hblk, ht⟩ : BusyBounds .addback _ _ _ _ := hp ▸ hbounds
  obtain hlast | hmore : s.blk + 1 = s.n ∨ s.blk + 1 < s.n := by omega
  · refine ⟨?_, .inl ⟨?_, hlen⟩⟩
    · simp only [stepsLeft, hp, afterAddback, hlast, if_true, Nat.sub_self, Nat.zero_mul]
    · simp only [afterAddback, hlast, if_true]
      exact ⟨rfl, ht⟩
  · have hnext : s.n - (s.blk + 1) = s.n - (s.blk + 1 + 1) + 1 := by omega
    refine ⟨?_, .inl ⟨?_, hlen⟩⟩
    · simp only [stepsLeft, hp, afterAddback, hmore.ne, if_false]
      rw [hnext, Nat.succ_mul]
      omega
    · simp only [afterAddback, hmore.ne, if_false]
      exact ⟨hmore, ht.le⟩

/-- Within the bounds the sequencer's move answers, and comes nearer to DONE (R220, R221). -/
theorem sequencerMove_nearer : ∃ u, sequencerMove s = .next u ∧ Nearer s u := by
  have ⟨hbounds, hlen⟩ := h
  cases hp : s.phase <;> rw [hp] at hbounds
  case idle | done | fault => exact hbounds.elim
  all_goals obtain ⟨hblk, ht⟩ := hbounds
  case load => exact ⟨_, sequencerMove_load hp hblk hlen, nearer_afterLoad h hp⟩
  case expand => exact ⟨_, sequencerMove_expand hp, nearer_afterExpand h hp⟩
  case round => exact ⟨_, sequencerMove_round hp ht, nearer_afterRound h hp⟩
  case addback => exact ⟨_, sequencerMove_addback hp ht hblk, nearer_afterAddback h hp⟩
  case format => exact ⟨_, sequencerMove_format hp hblk, nearer_afterFormat hp⟩

end

/-! The invariant -/

/-- A BUSY state of the invariant is within the bounds of its phase (R35). -/
theorem withinBounds_of_inv {s : State} (h : Inv s) (hb : isBusy s.phase = true) : WithinBounds s := by
  refine ⟨?_, h.latchedLength⟩
  have ht := h.busyRound hb
  cases hp : s.phase with
  | load => exact ⟨h.loadBlock hp, ht⟩
  | expand => exact ⟨h.expandBlock hp, h.expandRound hp⟩
  | round => exact ⟨h.roundBlock hp, h.roundRound hp⟩
  | addback => exact ⟨h.addbackBlock hp, h.addbackRound hp⟩
  | format => exact ⟨h.formatBlock hp, h.formatRound hp⟩
  | idle | done | fault =>
    rw [hp] at hb
    cases hb

/-- The sequencer's move answers in every state of the invariant (R220, R221). -/
theorem sequencerMove_next {s : State} (h : Inv s) : ∃ u, sequencerMove s = .next u := by
  cases hb : isBusy s.phase with
  | false => exact ⟨s, sequencerMove_of_not_busy hb⟩
  | true =>
    obtain ⟨u, hu, -⟩ := sequencerMove_nearer (withinBounds_of_inv h hb)
    exact ⟨u, hu⟩

/-- The host's move answers in every state, because its transaction does. -/
theorem hostMove_next (s : State) : ∃ u, hostMove s = .next u := by
  unfold hostMove
  split
  · exact ⟨s, rfl⟩
  all_goals
    obtain ⟨w, hw⟩ := transact_next _ _
    exact ⟨_, onNext_eq_next.mpr ⟨w, hw, rfl⟩⟩

/-- Settles O52: taking a turn keeps the invariant, and then every owner's move answers. -/
theorem invStepNeverStops : Obligations.InvStepNeverStops := by
  unfold Obligations.InvStepNeverStops
  intro s h
  have hd : Inv (dropTurn s) := inv_congr s.rdata s.draws s.turns.tail s.program h
  unfold step
  cases nextTurn s with
  | host => exact hostMove_next _
  | sequencer => exact sequencerMove_next hd
  | reset => exact ⟨_, rfl⟩

/-! The digest run -/

theorem WithinBounds.busy {s : State} (h : WithinBounds s) : isBusy s.phase = true := by
  obtain ⟨hbounds, -⟩ := h
  cases hp : s.phase <;> rw [hp] at hbounds
  case idle | done | fault => exact hbounds.elim
  all_goals rfl

theorem stepsLeft_of_done {s : State} (h : s.phase = .done) : stepsLeft s = 0 := by
  simp only [stepsLeft, h]

/-- Left to itself, a BUSY core within the bounds of its phase moves nearer to DONE at its next step, with no turn left
still (R220, R225). -/
theorem step_nearer {s : State} (h : WithinBounds s) (hs : s.turns = []) :
    ∃ u, step s = .next u ∧ sequencerMove s = .next u ∧ Nearer s u ∧ u.turns = [] := by
  obtain ⟨u, hu, hnear⟩ := sequencerMove_nearer h
  obtain ⟨hframe, -⟩ := sequencerFrame s u hu
  refine ⟨u, ?_, hu, hnear, ?_⟩
  · rw [step_of_nil hs, h.busy]
    exact hu
  · rw [hframe]
    exact hs

/-- A run begins with its first step. -/
theorem run_succ {s u : State} (h : step s = .next u) (k : Nat) : core.run (k + 1) s = core.run k u := by
  have hcore : core.step s = .next u := h
  simp only [Host.Core.run, hcore]

/-- Left to itself, a digest in progress is BUSY for `stepsLeft` steps, and then in DONE (R222). -/
theorem run_stepsLeft {g : Alg} {M : List Byte} {k : Nat} {s : State} (hk : stepsLeft s = k) (hs : s.turns = [])
    (hd : Digesting g M s) (h : WithinBounds s ∨ s.phase = .done) :
    ∃ u, core.run k s = .next u ∧ u.phase = .done ∧ Digesting g M u ∧
      ∀ j < k, ∃ v, core.run j s = .next v ∧ isBusy v.phase = true := by
  induction k generalizing s with
  | zero =>
    obtain h | h := h
    · obtain ⟨u, -, -, ⟨hnear, -⟩, -⟩ := step_nearer h hs
      omega
    · exact ⟨s, rfl, h, hd, nofun⟩
  | succ k ih =>
    obtain h | h := h
    · obtain ⟨v, hstep, hmove, ⟨hnear, hv⟩, hturns⟩ := step_nearer h hs
      obtain ⟨u, hrun, hdone, hu, hbusy⟩ := ih (by omega) hturns (digesting_sequencerMove hd hmove) hv
      refine ⟨u, (run_succ hstep k).trans hrun, hdone, hu, fun j hj => ?_⟩
      cases j with
      | zero => exact ⟨s, rfl, h.busy⟩
      | succ j =>
        rw [run_succ hstep]
        exact hbusy j (Nat.lt_of_succ_lt_succ hj)
    · rw [stepsLeft_of_done h] at hk
      cases hk

/-- An accepted START leaves the whole digest to do, within the bounds of LOAD (R148, R171, R202). -/
theorem beginDigest_progress (g : Alg) {L : Nat} {s : State} (hL : L ≤ capacity s) :
    WithinBounds (beginDigest g L s) ∧ stepsLeft (beginDigest g L s) = stepCount g (nblocks L) := by
  have hn := nblocks_eq_div L
  refine ⟨⟨⟨?_, startRound_le g s.draws⟩, hL⟩, ?_⟩
  · show 0 < nblocks L
    omega
  · show (nblocks L - (0 + 1)) * (roundCount g + 3) + (roundCount g + 4) = stepCount g (nblocks L)
    cases g <;> simp only [roundCount, stepCount] <;> omega

/-- Settles O57: START leaves `stepCount` steps to do, the run is `run_stepsLeft`, and what DONE holds is
`Digesting.result`. -/
theorem digestRunComputesTheDigest : Obligations.DigestRunComputesTheDigest := by
  unfold Obligations.DigestRunComputesTheDigest
  intro g M s hs hturns
  have ⟨hp, hlen, hcap, _⟩ := hs
  have hstart : start g s = beginDigest g M.length s := by rw [start_of_fits g hp (hlen ▸ hcap), hlen]
  obtain ⟨hbounds, hsteps⟩ := beginDigest_progress g hcap
  rw [← hstart] at hbounds hsteps
  have hturns' : (start g s).turns = [] := hstart ▸ hturns
  obtain ⟨u, hrun, hdone, hu, hbusy⟩ := run_stepsLeft hsteps hturns' (digesting_start hs) (.inl hbounds)
  obtain ⟨halg, hH, hbuf⟩ := hu.result hdone
  exact ⟨_, u, exec_startCommand g s, hrun, hbusy, hdone, halg, hH, hbuf⟩

/-- Settles O58: the run keeps the digest of M whatever the host and the schedule do, so DONE holds it. -/
theorem digestIsCorrectUnderEverySchedule : Obligations.DigestIsCorrectUnderEverySchedule := by
  unfold Obligations.DigestIsCorrectUnderEverySchedule
  exact fun g M s b u hs hb hrun hd => result_of_digestRun hs hb hrun hd

end Sys2Proof.Machine
end

section
/-! PROOFS. Faults (60_exceptions.md R240-R244): what a command and a transaction can do in FAULT, the two ways out of it,
and the order in which the causes are judged. -/

namespace Sys2Proof.Machine

/-! Inside FAULT -/

/-- In FAULT every command but CLEAR is ignored (R200, R242). -/
theorem exec_of_fault {i : Instr} {s : State} (hp : s.phase = .fault) (hi : i ≠ .clear) : exec i s = .next s := by
  cases i with
  | nop => rfl
  | startSha1 => exact congrArg _ (start_of_fault .sha1 hp)
  | startSha224 => exact congrArg _ (start_of_fault .sha224 hp)
  | startSha256 => exact congrArg _ (start_of_fault .sha256 hp)
  | clear => exact absurd rfl hi

/-- In FAULT a CMD write of any word but CLEAR's is ignored: a command by `exec_of_fault`, a reserved word because the first
cause stays (R242). -/
theorem cmdWrite_of_fault {v : Word} {s : State} (hp : s.phase = .fault) (hv : v ≠ encode .clear) :
    cmdWrite v s = .next s := by
  cases hd : decode v with
  | command i =>
    have hi : i ≠ .clear := by
      rintro rfl
      exact hv (eq_encode_of_decode hd)
    rw [cmdWrite_of_command hd, exec_of_fault hp hi]
  | illegal => rw [cmdWrite_of_illegal hd, raiseFault_of_fault _ hp]
  | startReservedAlg => rw [cmdWrite_of_startReservedAlg hd, raiseFault_of_fault _ hp]

/-- Settles O16: the write is CmdWrite once the last response is gone, and in FAULT that is ignored. -/
theorem faultIgnoresCommands : Obligations.FaultIgnoresCommands := by
  unfold Obligations.FaultIgnoresCommands
  intro v s hp hv
  rw [transact_write_cmd]
  exact cmdWrite_of_fault (s := respond none s) hp hv

/-- LEN, MSG, the response and the draws aside, the state is as before: all that FAULT leaves open (R242). -/
def KeepsFault (s u : State) : Prop :=
  u = { s with lenLo := u.lenLo, lenHi := u.lenHi, msg := u.msg, rdata := u.rdata, draws := u.draws }

theorem KeepsFault.phase {s u : State} (h : KeepsFault s u) : u.phase = s.phase := by
  rw [h]

/-- Everything a transaction can do in FAULT: clear it, or leave it (R242, R243). -/
theorem transact_of_fault {x : Transaction} {s u : State} (hp : s.phase = .fault) (h : transact x s = .next u) :
    (IsCommand x .clear ∧ u = leaveFault (respond none s)) ∨ KeepsFault s u := by
  obtain ⟨v, d, -, rfl⟩ | ⟨c, r, d, -, -, rfl⟩ | ⟨i, hx, hi⟩ | ⟨-, -, -, -, rfl⟩ | ⟨-, -, -, -, rfl⟩ |
    ⟨-, -, -, -, rfl⟩ := transact_cases h
  · exact .inr rfl
  · rw [raiseFault_of_fault c hp]
    exact .inr rfl
  · by_cases hclear : i = .clear
    · subst hclear
      cases hi
      exact .inl ⟨hx, rfl⟩
    · rw [exec_of_fault (s := respond none s) hp hclear] at hi
      cases hi
      exact .inr rfl
  · exact .inr rfl
  · exact .inr rfl
  · exact .inr rfl

/-- Settles O17: by `transact_of_fault`, with CLEAR excluded. -/
theorem faultIsSticky : Obligations.FaultIsSticky := by
  unfold Obligations.FaultIsSticky
  intro x s u hp h hclear
  obtain ⟨⟨hsp, hdir, hw, haddr, hdec⟩, -⟩ | hkeep := transact_of_fault hp h
  · exact absurd ⟨hsp, hdir, hw, haddr, eq_encode_of_decode hdec⟩ hclear
  · exact hkeep

/-! The ways out of FAULT -/

/-- A host move that leaves FAULT is a line that writes CLEAR to CMD, and it leaves to IDLE with no cause (R243). -/
theorem hostMove_leaves_fault {s u : State} (hp : s.phase = .fault) (h : hostMove s = .next u) (hu : u.phase ≠ .fault) :
    (∃ l rest, s.program = l :: rest ∧ commandOf s l = some (encode .clear)) ∧ u.phase = .idle ∧ u.cause = .none := by
  obtain ⟨-, rfl⟩ | ⟨l, rest, p, w, p', v', hprog, hw, rfl, -⟩ := hostMove_cases h
  · exact absurd hp hu
  · obtain ⟨hx, rfl⟩ | hkeep := transact_of_fault (s := { s with program := p }) hp hw
    · exact ⟨⟨l, rest, hprog, commandOf_of_isCommand hx⟩, rfl, rfl⟩
    · exact absurd (hkeep.phase.trans hp) hu

/-- Settles O18: the host leaves FAULT by CLEAR, the sequencer has no move there, and the reset input leaves to IDLE. -/
theorem onlyClearOrResetLeavesFault : Obligations.OnlyClearOrResetLeavesFault := by
  unfold Obligations.OnlyClearOrResetLeavesFault
  intro s u hp h hu
  obtain ⟨ht, hm⟩ | ⟨-, hm⟩ | ⟨ht, rfl⟩ := step_cases h
  · obtain ⟨hclear, hout⟩ := hostMove_leaves_fault (s := dropTurn s) hp hm hu
    exact ⟨.inr ⟨ht, hclear⟩, hout⟩
  · have hbusy : isBusy (dropTurn s).phase = false := by rw [dropTurn_phase, hp]; rfl
    rw [sequencerMove_of_not_busy hbusy] at hm
    cases hm
    exact absurd hp hu
  · exact ⟨.inl ht, rfl, rfl⟩

/-! The order of the causes -/

/-- The core is in FAULT with cause c. -/
def FaultedWith (c : Cause) (u : State) : Prop := u.phase = .fault ∧ u.cause = c

/-- A fault raised outside FAULT records its cause (R241). -/
theorem faultedWith_raiseFault (c : Cause) {s : State} (h : s.phase ≠ .fault) : FaultedWith c (raiseFault c s) := by
  rw [raiseFault_of_not_fault c h]
  exact ⟨rfl, rfl⟩

/-- A refused access outside FAULT records BAD_ACCESS, whether it reads or writes (R241). -/
theorem faultedWith_badAccess (dir : Dir) {s : State} (h : s.phase ≠ .fault) :
    FaultedWith .badAccess (badAccess dir s) := by
  cases dir with
  | rd => exact (faultedWith_raiseFault .badAccess h :)
  | wr => exact faultedWith_raiseFault .badAccess h

/-- The words of R75 with OP = 1 are the encodings of the three STARTs. -/
theorem eq_encode_startCommand {v : Word} (h : v ∈ [(0x00000001 : Word), 0x00000011, 0x00000021]) :
    ∃ g, v = encode (startCommand g) := by
  simp only [List.mem_cons, List.not_mem_nil, or_false] at h
  obtain rfl | rfl | rfl := h
  · exact ⟨.sha1, rfl⟩
  · exact ⟨.sha224, rfl⟩
  · exact ⟨.sha256, rfl⟩

/-- A CMD write outside FAULT reports its word first; only an unreserved START comes to BUSY (R244). -/
theorem faultedWith_of_cmdWrite {v : Word} {s u : State} (hp : s.phase ≠ .fault) (h : cmdWrite v s = .next u) :
    (decode v = .illegal → FaultedWith .illegalCommand u) ∧
    (decode v = .startReservedAlg → FaultedWith .malformedParameterSet u) ∧
    (isBusy s.phase = true → v ∈ [(0x00000001 : Word), 0x00000011, 0x00000021] → FaultedWith .busyViolation u) := by
  refine ⟨fun hd => ?_, fun hd => ?_, fun hb hv => ?_⟩
  · rw [cmdWrite_of_illegal hd] at h
    cases h
    exact faultedWith_raiseFault _ hp
  · rw [cmdWrite_of_startReservedAlg hd] at h
    cases h
    exact faultedWith_raiseFault _ hp
  · obtain ⟨g, rfl⟩ := eq_encode_startCommand hv
    rw [cmdWrite_of_command (decode_encode _), exec_startCommand, start_of_busy g hb] at h
    cases h
    exact ⟨rfl, rfl⟩

/-- In a BUSY state of the invariant LEN is within the buffer: it still holds the latched length (R206, R244). -/
theorem messageLength_le_of_busy {s : State} (h : Inv s) (hb : isBusy s.phase = true) : messageLength s ≤ capacity s :=
  h.busyLength hb ▸ h.latchedLength

/-- Settles O19: a refused form is answered before its word or the phase is looked at, a CMD write judges its word before
the phase, and the invariant keeps LENGTH_RANGE out of the BUSY phases. -/
theorem faultPriority : Obligations.FaultPriority := by
  unfold Obligations.FaultPriority
  intro s u x hp h
  refine ⟨fun hsp hw => ?_, fun hsp hw halign => ?_, fun hsp hdir hw haddr => ?_, messageLength_le_of_busy⟩
  · rw [transact_reg_refused s hsp (.inl hw)] at h
    cases h
    exact faultedWith_badAccess _ hp
  · have hform : msgAccessOk (capacity s) x.width x.addr = false :=
      msgAccessOk_eq_false (fun ⟨hw1, _⟩ => by omega) fun ⟨_, ha, _⟩ => halign ha
    rw [transact_msg_refused hsp hform] at h
    cases h
    exact faultedWith_badAccess _ hp
  · obtain ⟨space, dir, width, addr, v⟩ := x
    cases hsp; cases hdir; cases hw; cases haddr
    exact faultedWith_of_cmdWrite (s := respond none s) hp h

end Sys2Proof.Machine
end

section
/-! PROOFS. The reset input, in every state (70_reset_and_hazards.md R260). -/

namespace Sys2Proof.Machine

/-- A reset makes every byte of MSG UNWRITTEN: its buffer lists no byte (R37, R260). -/
theorem read_resetCore_msg (s : State) (a : Nat) : Memory.read (resetCore s).msg a = none :=
  Memory.read_eq [] a

/-- Settles O48: the next state is `resetCore` of the state without the turn, in any phase. STATUS is
`statusWord_of_idle`, MSG is `read_resetCore_msg`, and the other clauses are the fields `resetCore` sets or keeps. -/
theorem resetInput : Obligations.ResetInput := by
  unfold Obligations.ResetInput
  intro s rest hturn
  have hidle : (resetCore { s with turns := rest }).phase = .idle := resetCore_phase _
  exact ⟨resetCore { s with turns := rest }, step_of_cons hturn, hidle, resetCore_cause _, statusWord_of_idle hidle,
    resetCore_lenLo _, resetCore_lenHi _, read_resetCore_msg _, resetCore_msgCap _, resetCore_turns _,
    resetCore_program _, resetCore_vars _⟩

end Sys2Proof.Machine
end
